-- ==== Sys2Proof/Word.lean ====
section
/-! DEFINITION. The words the block moves: bytes, 16-bit words and the 9-bit counts of an arbiter. -/

namespace Sys2Proof

/-- `u8` of 00_scope.md section 4: one byte of data, a slot index, a parser register. -/
abbrev Byte := BitVec 8

/-- `u16` and `i16` of 00_scope.md section 4: a command word, a response word, a cursor, FAULT, FCMD, `pendLen`. -/
abbrev Word := BitVec 16

/-- A semaphore counter (rule R15, 0..N) or a GRAY_CDC pointer (rule R25, 0..2N−1), in the nine bits that the
largest N = 256 needs. DESIGN CHOICE, safe: a smaller N leaves the upper bits 0 (log 6). -/
abbrev Count := BitVec 9

end Sys2Proof
end

