-- ==== Sys2Proof/Config.lean ====
section
/-! DEFINITION. What is fixed when the block is built (its ports, its two queues, its parameters), the events that
can happen at its boundary, and the free schedule. -/

namespace Sys2Proof

/-- The external command ports of rule R45. The internal port P_A has no commands and is the EMIT event. -/
inductive Port where
  /-- Port I, the byte input of the FrameParser. -/
  | i
  /-- Port C_A, the consumer of queue A. -/
  | ca
  /-- Port P_B, the producer of queue B. -/
  | pb
  /-- Port C_B, the consumer of queue B. -/
  | cb
deriving DecidableEq, Repr, Inhabited

/-- The two BufferQueue instances of rule R2. -/
inductive QueueId where
  | a
  | b
deriving DecidableEq, Repr, Inhabited

/-- `ARBITER` of rule R6. -/
inductive ArbiterKind where
  | semaphore
  | grayCdc
deriving DecidableEq, Repr

/-- The parameters of one BufferQueue instance: `N` (R3), `CAP` (R4), `ARBITER` (R6). -/
structure QueueParams where
  n : Nat
  cap : Nat
  arbiter : ArbiterKind
deriving DecidableEq, Repr

/-- The build-time parameters of the block (00_scope.md section 3); `timedAcquire` is `TIMED_ACQUIRE = PRESENT` (R7). -/
structure Params where
  a : QueueParams
  b : QueueParams
  timedAcquire : Bool
deriving DecidableEq, Repr

/-- What can happen next: one step of one agent of rule R36, or one input of the host. The schedule is free (R37), so
nothing constrains which event comes when. -/
inductive Event where
  /-- The agent of port `p` is scheduled with its presented command. `timeout` is the draw of rule R73: what ACQWT
  does if no slot is available (true: complete with TIMEOUT; false: hold). No other command reads it. -/
  | turn (p : Port) (timeout : Bool)
  /-- The parser's emission step is scheduled (R100). -/
  | emit
  /-- SyncR2W of queue `x` is scheduled with the draw `d` (R86). -/
  | syncR2W (x : QueueId) (d : Nat)
  /-- SyncW2R of queue `x` is scheduled with the draw `d` (R86). -/
  | syncW2R (x : QueueId) (d : Nat)
  /-- Input: the host presents the command word `w` on port `p` (R46). -/
  | present (p : Port) (w : Word)
  /-- Input: the block reset (R117). -/
  | reset
deriving DecidableEq, Repr, Inhabited

/-- The FREE SCHEDULE: the event that comes next when State's tape has ended, as a function of how many such events came
before. It has no body that a proof can see, so a claim about a run holds for every schedule, every draw and every
input (R37, R110, I10, I14, I15; log 2). -/
opaque Config.freeEvent : Nat → Event

end Sys2Proof
end

