-- ==== Sys2Proof/Syntax.lean ====
section
/-! DEFINITION. The instruction set: one constructor per row of spec/opcode_table.json (rule R50), and the assembler
line of rules R55 to R57 as syntax. -/

namespace Sys2Proof

/-- The commands of the block (rule R50). The only operand is the byte of ADDB and PBYTE (R51). The port is no operand:
it is the place where the command is presented (R45), so it stands in State. -/
inductive Instr where
  /-- ACQW, R68. -/
  | acqw
  /-- RELW, R69. -/
  | relw
  /-- ADDB b, R70. -/
  | addb (b : Byte)
  /-- WFULL, R71. -/
  | wfull
  /-- WEMPTY, R72. -/
  | wempty
  /-- ACQWT, R73. -/
  | acqwt
  /-- ACQR, R75. -/
  | acqr
  /-- RELR, R76. -/
  | relr
  /-- REMB, R77. -/
  | remb
  /-- PEEK, R78. -/
  | peek
  /-- RFULL, R79. -/
  | rfull
  /-- REMPTY, R80. -/
  | rempty
  /-- PBYTE b, R90. -/
  | pbyte (b : Byte)
deriving DecidableEq, Repr

/-- What stands after the port of an assembler line (R55 to R57): one command, or a block pseudo-operation. -/
inductive Op where
  | command (i : Instr)
  /-- `WBLK b0, …, b(n−1)` (R56). -/
  | wblk (bytes : List Byte)
  /-- `RBLK n` (R57). -/
  | rblk (n : Nat)
deriving DecidableEq, Repr

/-- An assembler line `<port>: <operation>` (R55 to R57). -/
structure Line where
  port : Port
  op : Op
deriving DecidableEq, Repr

end Sys2Proof
end

