-- ==== Sys2Proof/WellFormed.lean ====
section
/-! DEFINITION. The well-formedness checks: a configuration within rules R3 to R7. An `Instr` needs no check of its own:
every byte is a legal operand (R51), and whether a port accepts it is the decoder's `legalOn` (R52). -/

namespace Sys2Proof

/-- The range of `N` (R3). -/
def QueueParams.legalSlots (q : QueueParams) : Bool := decide (1 ≤ q.n ∧ q.n ≤ 256)

/-- The range of `CAP` (R4). -/
def QueueParams.legalCapacity (q : QueueParams) : Bool := decide (1 ≤ q.cap ∧ q.cap ≤ 65535)

/-- GRAY_CDC needs N to be a power of two, 2^k with 0 ≤ k ≤ 8 (R6, R83). -/
def QueueParams.legalArbiter (q : QueueParams) : Bool :=
  match q.arbiter with
  | .semaphore => true
  | .grayCdc => decide (q.n ∈ [1, 2, 4, 8, 16, 32, 64, 128, 256])

/-- The checks of one instance (R3, R4, R83). -/
def QueueParams.wellFormed (q : QueueParams) : Bool := q.legalSlots && q.legalCapacity && q.legalArbiter

/-- The checks of the block: both instances, and CAP_A ≥ 252 (R5). -/
def Params.wellFormed (p : Params) : Bool :=
  p.a.wellFormed && p.b.wellFormed && decide (252 ≤ p.a.cap)

/-- A configuration: parameters together with the evidence that rules R3 to R7 allow them. Parameters out of range
have no `Config`: "a model refuses to construct it" (R10). -/
structure Config extends Params where
  legal : toParams.wellFormed = true
deriving DecidableEq, Repr

/-- Build a configuration, or refuse it (R10). -/
def Config.build (p : Params) : Option Config :=
  if h : p.wellFormed = true then some { toParams := p, legal := h } else none

/-- The parameters of instance `x`. -/
def Config.queue (c : Config) (x : QueueId) : QueueParams :=
  match x with
  | .a => c.a
  | .b => c.b

end Sys2Proof
end

