-- ==== Sys2Proof/Decode.lean ====
section
/-! DEFINITION. The command word: its fields (R47), the decoder (R50, R52, R53), which commands a port accepts (R45,
R52), and the encoder. -/

namespace Sys2Proof

/-- `CMD[15:12]`, the opcode (R47). -/
def opField (w : Word) : BitVec 4 := w.extractLsb' 12 4

/-- `CMD[11:8]`, reserved (R47). -/
def zField (w : Word) : BitVec 4 := w.extractLsb' 8 4

/-- `CMD[7:0]`, the data byte (R47, R51). -/
def dField (w : Word) : Byte := w.extractLsb' 0 8

/-- Why a word is no command on any port: the clauses (a), (b) and (d) of rule R52. -/
inductive IllegalWord where
  /-- R52 (a): `CMD[11:8] ≠ 0`. -/
  | nonzeroZ
  /-- R52 (b), R53: the opcode is 0x0, 0x7 or 0xF. -/
  | reservedOpcode
  /-- R52 (d): an opcode without operand has `CMD[7:0] ≠ 0x00`. -/
  | nonzeroD
deriving DecidableEq, Repr

/-- An operand-less command: D must be 0x00 (R47, R52 (d)). -/
def decodeBare (w : Word) (i : Instr) : Except IllegalWord Instr :=
  if dField w = 0 then .ok i else .error .nonzeroD

/-- The opcode map (R50), reserved opcodes rejected (R53). -/
def decodeOp (w : Word) : Except IllegalWord Instr :=
  match (opField w).toNat with
  | 0x1 => decodeBare w .acqw
  | 0x2 => decodeBare w .relw
  | 0x3 => .ok (.addb (dField w))
  | 0x4 => decodeBare w .wfull
  | 0x5 => decodeBare w .wempty
  | 0x6 => decodeBare w .acqwt
  | 0x8 => decodeBare w .acqr
  | 0x9 => decodeBare w .relr
  | 0xA => decodeBare w .remb
  | 0xB => decodeBare w .peek
  | 0xC => decodeBare w .rfull
  | 0xD => decodeBare w .rempty
  | 0xE => .ok (.pbyte (dField w))
  | _ => .error .reservedOpcode

/-- The decoder: total on all 65 536 words (R54). What a word means does not depend on the port; whether the port
accepts it does (`legalOn`). -/
def decode (w : Word) : Except IllegalWord Instr :=
  if zField w = 0 then decodeOp w else .error .nonzeroZ

/-- The "legal on" column of rule R50 (R45), the TIMED_ACQUIRE condition of ACQWT left to `legalOn`. -/
def Instr.belongsOn (i : Instr) (p : Port) : Bool :=
  match p, i with
  | .i, .pbyte _ => true
  | .ca, .acqr | .ca, .relr | .ca, .remb | .ca, .peek | .ca, .rfull | .ca, .rempty => true
  | .cb, .acqr | .cb, .relr | .cb, .remb | .cb, .peek | .cb, .rfull | .cb, .rempty => true
  | .pb, .acqw | .pb, .relw | .pb, .addb _ | .pb, .wfull | .pb, .wempty | .pb, .acqwt => true
  | _, _ => false

/-- `OP in LegalOps(p)` (R52 (c), (e)): the command belongs on the port, and ACQWT only with TIMED_ACQUIRE = PRESENT. -/
def legalOn (timed : Bool) (p : Port) (i : Instr) : Bool :=
  i.belongsOn p && (timed || decide (i ≠ .acqwt))

/-- `Legal(p, CMD)` (R52). -/
def legalWord (timed : Bool) (p : Port) (w : Word) : Bool :=
  match decode w with
  | .ok i => legalOn timed p i
  | .error _ => false

/-- The opcode column of rule R50. -/
def opcode (i : Instr) : BitVec 4 :=
  match i with
  | .acqw => 0x1#4
  | .relw => 0x2#4
  | .addb _ => 0x3#4
  | .wfull => 0x4#4
  | .wempty => 0x5#4
  | .acqwt => 0x6#4
  | .acqr => 0x8#4
  | .relr => 0x9#4
  | .remb => 0xA#4
  | .peek => 0xB#4
  | .rfull => 0xC#4
  | .rempty => 0xD#4
  | .pbyte _ => 0xE#4

/-- The D field of a command: the operand byte, or 0x00 (R47, R51). -/
def operandByte (i : Instr) : Byte :=
  match i with
  | .addb b => b
  | .pbyte b => b
  | _ => 0

/-- The encoder (R47): `(OP << 12) | imm8` of rule R55. -/
def encode (i : Instr) : Word := opcode i ++ 0#4 ++ operandByte i

/-- A port on which the word can be presented so that its command is legal there: C_A for the consumer commands, which
are legal on C_A and C_B alike; port I where the word is no command (R50). -/
def homePort (w : Word) : Port :=
  match decode w with
  | .ok i => if i.belongsOn .pb then .pb else if i.belongsOn .ca then .ca else .i
  | .error _ => .i

/-- The instruction the decoder reads from the bits `w` of a row that is `nbits` wide. A command is one 16-bit word and
has no byte order (R47, R34); bits above 16 are no command. -/
def decodeTableWord (nbits w : Nat) : Option Instr :=
  if nbits ≤ 16 ∧ w < 2 ^ nbits then (decode (BitVec.ofNat 16 w)).toOption else none

end Sys2Proof
end

