-- ==== Sys2Proof/Machine/State.lean ====
section
/-! DEFINITION. The state of the block (10_state.md), as plain data, the state after reset (R117), and the reasons why a
step of the model can stop. -/

namespace Sys2Proof.Machine

/-- A storage array (R31): address and byte pairs, addresses strictly rising. An address that is not listed holds NO
VALUE (R30, D38): nothing has written it since the last reset or recycle (log 5, log 14). No byte is ever equal to that, so no
write leaves an entry out. -/
abbrev Memory := List Host.Cell

/-- The canonical form: addresses strictly rising, so equal memories are equal lists. -/
abbrev Memory.wf (m : Memory) : Prop := m.Pairwise (fun x y => x.1 < y.1)

/-- One CircularByteBuffer (R13). Its storage bytes stand in the slot RAM of its queue (R31, R32). -/
structure Slot where
  /-- readCursor -/
  rd : Word
  /-- writeCursor -/
  wr : Word
  /-- count -/
  cnt : Word
deriving DecidableEq, Repr

/-- A slot right after CB_Reset (R59). -/
def Slot.empty : Slot := { rd := 0, wr := 0, cnt := 0 }

/-- The counters of ARBITER = SEMAPHORE (R15). -/
structure Semaphores where
  /-- writeSlotIndex -/
  wIdx : Byte
  /-- readSlotIndex -/
  rIdx : Byte
  /-- slotsAvailableForWrite -/
  semW : Count
  /-- slotsAvailableForRead -/
  semR : Count
deriving DecidableEq, Repr

/-- The pointers of ARBITER = GRAY_CDC (R25). -/
structure GrayPointers where
  wPtr : Count
  rPtr : Count
  /-- the producer side's copy of `rPtr` -/
  rPtrSyncW : Count
  /-- the consumer side's copy of `wPtr` -/
  wPtrSyncR : Count
deriving DecidableEq, Repr

/-- The arbiter of a queue: a GRAY_CDC instance "does not store" the semaphores and indices (R25). -/
inductive Arbiter where
  | semaphore (c : Semaphores)
  | grayCdc (p : GrayPointers)
deriving DecidableEq, Repr

/-- One BufferQueue instance (R15, R25) with its slot RAM (R31). -/
structure Queue where
  slots : List Slot
  arbiter : Arbiter
  /-- the producer holds the write slot -/
  wHeld : Bool
  /-- the consumer holds the read slot -/
  rHeld : Bool
  /-- the slot RAM: byte k of slot j is at j × CAP + k (R32) -/
  ram : Memory
deriving DecidableEq, Repr

/-- The states of the FrameParser (R21). Encoding 7, which no rule writes, is no value of this type (log 12). -/
inductive ParserState where
  | awaitPreamble1
  | awaitPreamble2
  | awaitPreamble3
  | awaitCommand
  | awaitLength
  | collectPayload
  | errorRecovery
deriving DecidableEq, Repr

/-- The encodings of rule R21. No command reads them. -/
def ParserState.code : ParserState → BitVec 3
  | .awaitPreamble1 => 0
  | .awaitPreamble2 => 1
  | .awaitPreamble3 => 2
  | .awaitCommand => 3
  | .awaitLength => 4
  | .collectPayload => 5
  | .errorRecovery => 6

/-- The FrameParser P (R20). -/
structure Parser where
  st : ParserState
  csum : Byte
  plen : Byte
  idx : Byte
  /-- the 250-byte payload buffer (R33) -/
  data : Memory
  pend : Bool
  /-- an i16 in two's complement (log 17) -/
  pendLen : Word
deriving DecidableEq, Repr

/-- One external port (R26, R46). -/
structure PortState where
  /-- the presented command word that has not completed, or none -/
  cmd : Option Word
  /-- THE MODEL's OWN: the response word of the last completed command, none until the command presented last has
  completed (log 7) -/
  rsp : Option Word
deriving DecidableEq, Repr

/-- THE MODEL's OWN: whose turn it is. -/
structure Turn where
  /-- the port whose agent is scheduled -/
  port : Port
  /-- the draw of ACQWT (R73): complete with TIMEOUT if no slot is available -/
  timeout : Bool
deriving DecidableEq, Repr

/-- The state of the BQFP core (R11), and the model's own fields `cfg`, `turn`, `tape`, `drawn`. -/
structure State where
  /-- the build-time parameters (R12): no step writes them (log 1) -/
  cfg : Config
  /-- FAULT (R24) -/
  fault : Word
  /-- FCMD (R24) -/
  fcmd : Word
  /-- P (R20) -/
  parser : Parser
  /-- A (R2) -/
  queueA : Queue
  /-- B (R2) -/
  queueB : Queue
  /-- port I (R45) -/
  portI : PortState
  /-- port C_A (R45) -/
  portCA : PortState
  /-- port P_B (R45) -/
  portPB : PortState
  /-- port C_B (R45) -/
  portCB : PortState
  /-- the turn being taken (log 8) -/
  turn : Turn
  /-- the events to come, the first next: the schedule and the host's inputs as plain data (log 2) -/
  tape : List Event
  /-- how many events the free schedule has supplied so far (log 2) -/
  drawn : Nat
deriving DecidableEq, Repr

/-- Why a step stops with a fault of the MODEL. The block's own faults (R105) are states, not these. Neither reason is
reachable from reset. Both are SAFE: the model stops where it would otherwise have to make a value up. -/
inductive Fault where
  /-- Raised by CB_RemoveByte, CB_PeekByte (REMB, PEEK) and EMIT: the storage byte to be read has no value. "If a model
  ever finds it reading one, that is a bug in the model and should fault, not return zero" (R30). Safe. -/
  | unwrittenByte
  /-- Raised by CB_AddByte, CB_RemoveByte, CB_PeekByte, PBYTE and EMIT: the address lies outside the storage array (R31,
  R32, R33). Safe. -/
  | outsideStorage
deriving DecidableEq, Repr

/-- Why a step is refused. -/
inductive Refusal where
  /-- Raised by an arm of `exec` that has no meaning yet, with its mnemonic. No arm is left so. Safe. -/
  | notModelled (mnemonic : String)
  /-- Raised by the input event that presents a command on a port whose last command has not completed: "A model has no
  transition for it" (I18, R26, R130). Safe. -/
  | portBusy (p : Port)
deriving DecidableEq, Repr

/-- The parser after reset (R117). -/
def Parser.reset : Parser :=
  { st := .awaitPreamble1, csum := 0, plen := 0, idx := 0, data := [], pend := false, pendLen := 0 }

/-- The arbiter of an instance after reset (R117, R89). -/
def Arbiter.reset (g : QueueParams) : Arbiter :=
  match g.arbiter with
  | .semaphore => .semaphore { wIdx := 0, rIdx := 0, semW := BitVec.ofNat 9 g.n, semR := 0 }
  | .grayCdc => .grayCdc { wPtr := 0, rPtr := 0, rPtrSyncW := 0, wPtrSyncR := 0 }

/-- A queue after reset (R117): every slot empty, nothing held, the storage without a value (R30). -/
def Queue.reset (g : QueueParams) : Queue :=
  { slots := List.replicate g.n Slot.empty, arbiter := Arbiter.reset g, wHeld := false, rHeld := false, ram := [] }

/-- A port after reset: no command (R26, R117), no response. -/
def PortState.idle : PortState := { cmd := none, rsp := none }

/-- The block of configuration `c` right after reset (R117, R118), with nothing scheduled yet. -/
def State.resetWith (c : Config) : State :=
  { cfg := c, fault := 0, fcmd := 0, parser := Parser.reset, queueA := Queue.reset c.a, queueB := Queue.reset c.b,
    portI := .idle, portCA := .idle, portPB := .idle, portCB := .idle,
    turn := { port := .i, timeout := false }, tape := [], drawn := 0 }

/-- DESIGN CHOICE, unsafe (log 1): the configuration of `State.reset`. ARBITER and TIMED_ACQUIRE are the spec's defaults
(R6, R7); N and CAP, which have no default (00_scope.md section 3), are those of the vectors of 95_test_vectors.md. -/
def defaultConfig : Config :=
  { a := { n := 4, cap := 252, arbiter := .semaphore }, b := { n := 2, cap := 4, arbiter := .semaphore },
    timedAcquire := false, legal := by decide }

/-- The machine right after reset (R117). -/
def State.reset : State := State.resetWith defaultConfig

end Sys2Proof.Machine
end

