-- ==== Sys2Proof/Machine/Operands.lean ====
section
/-! DEFINITION. The operand forms: bytes of a 16-bit field, the slot address (R32), and the queue a port acts on (R45). -/

namespace Sys2Proof.Machine

/-- `hi8(v) = v[15:8]` (00_scope.md section 4). -/
def hi8 (v : Word) : Byte := v.extractLsb' 8 8

/-- `lo8(v) = v[7:0]` (00_scope.md section 4). -/
def lo8 (v : Word) : Byte := v.extractLsb' 0 8

/-- `zext_16(v)` (00_scope.md section 4). -/
def zext16 (v : Byte) : Word := v.setWidth 16

/-- `SlotAddr(X, j, k) = j * X.CAP + k` (R32). -/
def slotAddr (g : QueueParams) (j k : Nat) : Nat := j * g.cap + k

/-- The instance behind a port (R45): C_A is the consumer of A; P_B and C_B belong to B. Port I has no queue; no command
that is legal on it asks. -/
def queueOf (p : Port) : QueueId :=
  match p with
  | .ca => .a
  | .i | .pb | .cb => .b

/-- One external port. -/
def State.port (s : State) (p : Port) : PortState :=
  match p with
  | .i => s.portI
  | .ca => s.portCA
  | .pb => s.portPB
  | .cb => s.portCB

/-- Write one external port. -/
def State.setPort (s : State) (p : Port) (v : PortState) : State :=
  match p with
  | .i => { s with portI := v }
  | .ca => { s with portCA := v }
  | .pb => { s with portPB := v }
  | .cb => { s with portCB := v }

/-- One queue instance. -/
def State.queue (s : State) (x : QueueId) : Queue :=
  match x with
  | .a => s.queueA
  | .b => s.queueB

/-- Write one queue instance. -/
def State.setQueue (s : State) (x : QueueId) (q : Queue) : State :=
  match x with
  | .a => { s with queueA := q }
  | .b => { s with queueB := q }

end Sys2Proof.Machine
end

