-- ==== Sys2Proof/Machine/Flags.lean ====
section
/-! DEFINITION. The block has no flags register: "status outcomes take the place of flags" (R28). Here are the status
codes and the response word (R48, R49), and the fields and codes of FAULT (R24, R105). -/

namespace Sys2Proof.Machine

/-- The status of a response (R49). -/
inductive Status where
  | ok
  | full
  | empty
  | timeout
deriving DecidableEq, Repr

/-- The codes of rule R49. -/
def Status.code (st : Status) : BitVec 2 :=
  match st with
  | .ok => 0
  | .full => 1
  | .empty => 2
  | .timeout => 3

/-- The response word (R48): zero [15:10], ST [9:8], DATA [7:0]. -/
def responseWord (st : Status) (data : Byte) : Word := 0#6 ++ st.code ++ data

/-- A predicate's result byte: 1 or 0 (R60, R61). -/
def flagByte (c : Bool) : Byte := if c then 1 else 0

/-- The fault causes (R105). -/
inductive FaultCode where
  | acqwWhileHeld
  | relwNotHeld
  | waccessNotHeld
  | acqrWhileHeld
  | relrNotHeld
  | raccessNotHeld
  | illegalCommand
deriving DecidableEq, Repr

/-- FAULT.CODE (R105). -/
def FaultCode.code (c : FaultCode) : Byte :=
  match c with
  | .acqwWhileHeld => 0x01
  | .relwNotHeld => 0x02
  | .waccessNotHeld => 0x03
  | .acqrWhileHeld => 0x04
  | .relrNotHeld => 0x05
  | .raccessNotHeld => 0x06
  | .illegalCommand => 0x07

/-- FAULT.SRC (R24): the port's number. 1 is P_A, which never faults (R105). -/
def portNumber (p : Port) : BitVec 3 :=
  match p with
  | .i => 0
  | .ca => 2
  | .pb => 3
  | .cb => 4

/-- FAULT after a raise (R24, R107): F = 1, SRC, reserved 0, CODE. -/
def faultWord (p : Port) (c : FaultCode) : Word := 1#1 ++ portNumber p ++ 0#4 ++ c.code

/-- FAULT.F (R24): the block has faulted and is halted. -/
def State.halted (s : State) : Bool := s.fault.getLsbD 15

/-- FAULT.SRC (R24). -/
def State.faultSrc (s : State) : BitVec 3 := s.fault.extractLsb' 12 3

/-- FAULT.CODE (R24). -/
def State.faultCode (s : State) : Byte := s.fault.extractLsb' 0 8

end Sys2Proof.Machine
end

