-- ==== Sys2Proof/Machine/Ops.lean ====
section
/-! DEFINITION. The named operations: bytes of a storage array, slots of a queue, answering a port, RAISING A FAULT (R107)
and the way out of it, the block reset (R117), and the frame every command's meaning stands in (R106). -/

namespace Sys2Proof.Machine

/-! ## Storage arrays -/

/-- The byte at an address, or none where nothing has been written (R30). -/
def Memory.read (m : Memory) (addr : Nat) : Option Byte :=
  match m with
  | [] => none
  | (a, v) :: rest => if addr = a then some v else Memory.read rest addr

/-- Write one byte, keeping the addresses rising. -/
def Memory.write (m : Memory) (addr : Nat) (v : Byte) : Memory :=
  match m with
  | [] => [(addr, v)]
  | (a, w) :: rest =>
    if addr < a then (addr, v) :: (a, w) :: rest
    else if addr = a then (a, v) :: rest
    else (a, w) :: Memory.write rest addr v

/-- The bytes of the addresses from `lo` up to, and without, `hi` lose their value (R30, I7). -/
def Memory.forget (m : Memory) (lo hi : Nat) : Memory := m.filter (fun c => !decide (lo ≤ c.1 ∧ c.1 < hi))

/-- The number of bytes of a slot RAM (R31). -/
def ramSize (g : QueueParams) : Nat := g.n * g.cap

/-- `MemRead(X, addr, 1)` (R32): outside the RAM and for a byte without a value (R30) the model stops. -/
def ramRead (g : QueueParams) (q : Queue) (addr : Nat) : Except Fault Byte :=
  if addr < ramSize g then
    match q.ram.read addr with
    | some v => .ok v
    | none => .error .unwrittenByte
  else .error .outsideStorage

/-- `MemWrite(X, addr, 1, v)` (R32). -/
def ramWrite (g : QueueParams) (q : Queue) (addr : Nat) (v : Byte) : Except Fault Queue :=
  if addr < ramSize g then .ok { q with ram := q.ram.write addr v } else .error .outsideStorage

/-- The size of the payload buffer, MAX_PAYLOAD (R8, R33). -/
def payloadSize : Nat := 250

/-- `PMemRead(k)` (R33). -/
def payloadRead (data : Memory) (k : Nat) : Except Fault Byte :=
  if k < payloadSize then
    match data.read k with
    | some v => .ok v
    | none => .error .unwrittenByte
  else .error .outsideStorage

/-- `PMemWrite(k, v)` (R33). -/
def payloadWrite (data : Memory) (k : Nat) (v : Byte) : Except Fault Memory :=
  if k < payloadSize then .ok (data.write k v) else .error .outsideStorage

/-! ## Slots -/

/-- `X.slot[j]`. A queue has N slots in every reachable state; a slot that is not there reads as an empty one (log 19). -/
def Queue.slot (q : Queue) (j : Nat) : Slot := q.slots.getD j Slot.empty

/-- Write `X.slot[j]`. -/
def Queue.setSlot (q : Queue) (j : Nat) (v : Slot) : Queue := { q with slots := q.slots.set j v }

/-! ## Ports, faults, reset -/

/-- `respond(st, data)` on port `p` (R46, R48): the command leaves the port, the response word is given. -/
def State.answer (s : State) (p : Port) (rsp : Word) : State := s.setPort p { cmd := none, rsp := some rsp }

/-- `raise Fault(code)` in the step of the command word `cmd` on port `p` (R107): FAULT and FCMD, and nothing else. The
faulting command stays presented and gets no response (log 13). -/
def State.raise (s : State) (p : Port) (cmd : Word) (code : FaultCode) : State :=
  { s with fault := faultWord p code, fcmd := cmd }

/-- The block reset (R117, R118): every state element to its reset value, commands in flight discarded, storage without a
value (R30). The configuration does not change (R12). The model's schedule goes on. It is the only way out of the
halted state (R108). -/
def State.blockReset (s : State) : State :=
  { State.resetWith s.cfg with tape := s.tape, drawn := s.drawn }

/-! ## The frame of a command -/

/-- What the rule of one command decides (00_scope.md section 4, "Outcomes of a step"), with the model's own stop. -/
inductive Action where
  /-- `respond(st, data)`, with the state the rule's other writes give. -/
  | respond (st : Status) (data : Byte) (s : State)
  /-- `hold`: the command's agent has no step now. -/
  | hold
  /-- `raise Fault(code)`. -/
  | raise (code : FaultCode)
  /-- A stop of the model (R30). -/
  | stop (f : Fault)

/-- Carry out the decision on the scheduled port. A hold changes nothing (R42); FCMD is the complete command word (R24),
which is the encoding of the command (log 8). -/
def conclude (i : Instr) (s : State) (a : Action) : Host.Outcome State Fault Refusal :=
  match a with
  | .respond st data t => .next (t.answer s.turn.port (responseWord st data))
  | .hold => .next s
  | .raise code => .next (s.raise s.turn.port (encode i) code)
  | .stop f => .fault f

/-- One scheduled command on the scheduled port, in the check order of rule R106: halted (the agent has no step, R107),
illegal on the port (R52 (c), (e)), then `rule`, which begins with the command's held-state check. -/
def command (i : Instr) (s : State) (rule : Action) : Host.Outcome State Fault Refusal :=
  if s.halted then .next s
  else if legalOn s.cfg.timedAcquire s.turn.port i then conclude i s rule
  else conclude i s (.raise .illegalCommand)

end Sys2Proof.Machine
end

