-- ==== Sys2Proof/Machine/CircularBuffer.lean ====
section
/-! DEFINITION. The CircularByteBuffer operations (40_circular_buffer.md) on slot `j` of a queue. -/

namespace Sys2Proof.Machine

/-- What an operation returns, `(status, value)`, and the queue after it. -/
structure Reply where
  st : Status
  value : Byte
  q : Queue
deriving DecidableEq, Repr

/-- A cursor one position on, mod CAP (R62, R63). The sum is an integer, not a u16. -/
def nextCursor (g : QueueParams) (c : Word) : Word := BitVec.ofNat 16 ((c.toNat + 1) % g.cap)

/-- CB_Reset (R59): cursors and count to 0. The storage is not cleared: its bytes hold no defined value from here on (R30, D38,
I7), so none of them can be read before it is written again. DEDUCED, safe (log 14). -/
def cbReset (g : QueueParams) (j : Nat) (q : Queue) : Queue :=
  { q.setSlot j Slot.empty with ram := q.ram.forget (slotAddr g j 0) (slotAddr g j g.cap) }

/-- `count == capacity` (R60). -/
def slotFull (g : QueueParams) (s : Slot) : Bool := decide (s.cnt.toNat = g.cap)

/-- `count == 0` (R61). -/
def slotEmpty (s : Slot) : Bool := decide (s.cnt.toNat = 0)

/-- CB_IsFull (R60). -/
def cbIsFull (g : QueueParams) (j : Nat) (q : Queue) : Reply :=
  { st := .ok, value := flagByte (slotFull g (q.slot j)), q := q }

/-- CB_IsEmpty (R61). -/
def cbIsEmpty (j : Nat) (q : Queue) : Reply :=
  { st := .ok, value := flagByte (slotEmpty (q.slot j)), q := q }

/-- CB_AddByte (R62). -/
def cbAddByte (g : QueueParams) (j : Nat) (b : Byte) (q : Queue) : Except Fault Reply :=
  let s := q.slot j
  if slotFull g s then .ok { st := .full, value := 0, q := q }
  else
    match ramWrite g q (slotAddr g j s.wr.toNat) b with
    | .ok q' => .ok { st := .ok, value := b, q := q'.setSlot j { s with wr := nextCursor g s.wr, cnt := s.cnt + 1 } }
    | .error f => .error f

/-- CB_RemoveByte (R63). -/
def cbRemoveByte (g : QueueParams) (j : Nat) (q : Queue) : Except Fault Reply :=
  let s := q.slot j
  if slotEmpty s then .ok { st := .empty, value := 0, q := q }
  else
    match ramRead g q (slotAddr g j s.rd.toNat) with
    | .ok v => .ok { st := .ok, value := v, q := q.setSlot j { s with rd := nextCursor g s.rd, cnt := s.cnt - 1 } }
    | .error f => .error f

/-- CB_PeekByte (R64). -/
def cbPeekByte (g : QueueParams) (j : Nat) (q : Queue) : Except Fault Reply :=
  let s := q.slot j
  if slotEmpty s then .ok { st := .empty, value := 0, q := q }
  else
    match ramRead g q (slotAddr g j s.rd.toNat) with
    | .ok v => .ok { st := .ok, value := v, q := q }
    | .error f => .error f

/-- CB_WriteBlock (R65): CB_AddByte for each byte in order, without early exit; the list of the statuses. -/
def cbWriteBlock (g : QueueParams) (j : Nat) (bytes : List Byte) (q : Queue) : Except Fault (List Status × Queue) :=
  match bytes with
  | [] => .ok ([], q)
  | b :: rest =>
    match cbAddByte g j b q with
    | .error f => .error f
    | .ok r =>
      match cbWriteBlock g j rest r.q with
      | .error f => .error f
      | .ok (sts, q') => .ok (r.st :: sts, q')

/-- CB_ReadBlock (R66): `n` calls of CB_RemoveByte; the bytes of the calls that returned OK. -/
def cbReadBlock (g : QueueParams) (j : Nat) (n : Nat) (q : Queue) : Except Fault (List Byte × Queue) :=
  match n with
  | 0 => .ok ([], q)
  | n + 1 =>
    match cbRemoveByte g j q with
    | .error f => .error f
    | .ok r =>
      match cbReadBlock g j n r.q with
      | .error f => .error f
      | .ok (bytes, q') => .ok (if r.st = .ok then r.value :: bytes else bytes, q')

end Sys2Proof.Machine
end

