-- ==== Sys2Proof/Machine/Arbiter.lean ====
section
/-! DEFINITION. The slot arbiter of a queue: indices, availability, acquire and release, for ARBITER = SEMAPHORE (R68, R69,
R75, R76) and ARBITER = GRAY_CDC (R82, R84, R85, R86). -/

namespace Sys2Proof.Machine

/-- `(p − q) mod 2N` of two pointers (R82). -/
def pointerDistance (g : QueueParams) (p q : Count) : Nat :=
  (p.toNat + 2 * g.n - q.toNat % (2 * g.n)) % (2 * g.n)

/-- A pointer `d` positions on, mod 2N (R82). -/
def pointerAdvance (g : QueueParams) (p : Count) (d : Nat) : Count := BitVec.ofNat 9 ((p.toNat + d) % (2 * g.n))

/-- A slot index one on, mod N (R69, R76). -/
def nextIndex (g : QueueParams) (i : Byte) : Byte := BitVec.ofNat 8 ((i.toNat + 1) % g.n)

/-- `Fw = (wPtr − rPtrSyncW) mod 2N`, the producer's view of the filled slots (R82). -/
def GrayPointers.filledSeenByProducer (g : QueueParams) (p : GrayPointers) : Nat :=
  pointerDistance g p.wPtr p.rPtrSyncW

/-- `Fr = (wPtrSyncR − rPtr) mod 2N`, the consumer's view of the filled slots (R82). -/
def GrayPointers.filledSeenByConsumer (g : QueueParams) (p : GrayPointers) : Nat :=
  pointerDistance g p.wPtrSyncR p.rPtr

/-- `semW_v = N − Fw − wHeld`, the producer's view of slotsAvailableForWrite (R82). -/
def GrayPointers.semWView (g : QueueParams) (p : GrayPointers) (wHeld : Bool) : Int :=
  (g.n : Int) - (p.filledSeenByProducer g : Int) - (wHeld.toNat : Int)

/-- `semR_v = Fr − rHeld`, the consumer's view of slotsAvailableForRead (R82). -/
def GrayPointers.semRView (g : QueueParams) (p : GrayPointers) (rHeld : Bool) : Int :=
  (p.filledSeenByConsumer g : Int) - (rHeld.toNat : Int)

/-- The current write slot: `wIdx`, or `wPtr mod N` (R15, R82). -/
def Queue.writeSlot (g : QueueParams) (q : Queue) : Nat :=
  match q.arbiter with
  | .semaphore c => c.wIdx.toNat
  | .grayCdc p => p.wPtr.toNat % g.n

/-- The current read slot: `rIdx`, or `rPtr mod N` (R15, R82). -/
def Queue.readSlot (g : QueueParams) (q : Queue) : Nat :=
  match q.arbiter with
  | .semaphore c => c.rIdx.toNat
  | .grayCdc p => p.rPtr.toNat % g.n

/-- A write slot can be acquired: `semW > 0` (R68), or `Fw < N` (R84, R100; log 10). -/
def Queue.canAcquireWrite (g : QueueParams) (q : Queue) : Bool :=
  match q.arbiter with
  | .semaphore c => decide (0 < c.semW.toNat)
  | .grayCdc p => decide (p.filledSeenByProducer g < g.n)

/-- A read slot can be acquired: `semR > 0` (R75), or `Fr ≠ 0` (R84). -/
def Queue.canAcquireRead (g : QueueParams) (q : Queue) : Bool :=
  match q.arbiter with
  | .semaphore c => decide (0 < c.semR.toNat)
  | .grayCdc p => decide (p.filledSeenByConsumer g ≠ 0)

/-- AcquireWriteSlot once it is available: `semW <- semW − 1; wHeld <- 1` (R68); under GRAY_CDC only `wHeld <- 1` (R84). -/
def Queue.acquireWrite (q : Queue) : Queue :=
  match q.arbiter with
  | .semaphore c => { q with arbiter := .semaphore { c with semW := c.semW - 1 }, wHeld := true }
  | .grayCdc _ => { q with wHeld := true }

/-- ReleaseWriteSlot: `wIdx <- (wIdx + 1) mod N; semR <- semR + 1; wHeld <- 0` (R69), or `wPtr <- (wPtr + 1) mod 2N` in
place of the first two (R85). The slot is not reset. -/
def Queue.releaseWrite (g : QueueParams) (q : Queue) : Queue :=
  match q.arbiter with
  | .semaphore c =>
    { q with arbiter := .semaphore { c with wIdx := nextIndex g c.wIdx, semR := c.semR + 1 }, wHeld := false }
  | .grayCdc p => { q with arbiter := .grayCdc { p with wPtr := pointerAdvance g p.wPtr 1 }, wHeld := false }

/-- AcquireReadSlot once it is available: `semR <- semR − 1; rHeld <- 1` (R75); under GRAY_CDC only `rHeld <- 1` (R84). -/
def Queue.acquireRead (q : Queue) : Queue :=
  match q.arbiter with
  | .semaphore c => { q with arbiter := .semaphore { c with semR := c.semR - 1 }, rHeld := true }
  | .grayCdc _ => { q with rHeld := true }

/-- The counters' part of ReleaseReadSlot: `rIdx <- (rIdx + 1) mod N; semW <- semW + 1; rHeld <- 0` (R76), or
`rPtr <- (rPtr + 1) mod 2N` in place of the first two (R85). -/
def Queue.freeReadSlot (g : QueueParams) (q : Queue) : Queue :=
  match q.arbiter with
  | .semaphore c =>
    { q with arbiter := .semaphore { c with rIdx := nextIndex g c.rIdx, semW := c.semW + 1 }, rHeld := false }
  | .grayCdc p => { q with arbiter := .grayCdc { p with rPtr := pointerAdvance g p.rPtr 1 }, rHeld := false }

/-- ReleaseReadSlot: recycle the read slot with CB_Reset, then free it (R76, R85). -/
def Queue.releaseRead (g : QueueParams) (q : Queue) : Queue :=
  (cbReset g (q.readSlot g) q).freeReadSlot g

/-- A SYNC step moves a copy `d` positions towards the pointer it copies, `1 ≤ d ≤` the distance (R86). With any other
`d` there is no such step, and the copy stays (log 18). -/
def syncPointer (g : QueueParams) (source copy : Count) (d : Nat) : Count :=
  if 1 ≤ d ∧ d ≤ pointerDistance g source copy then pointerAdvance g copy d else copy

/-- SyncR2W (R86). A SEMAPHORE instance has no synchroniser (R36 (c)). -/
def Queue.syncR2W (g : QueueParams) (d : Nat) (q : Queue) : Queue :=
  match q.arbiter with
  | .semaphore _ => q
  | .grayCdc p => { q with arbiter := .grayCdc { p with rPtrSyncW := syncPointer g p.rPtr p.rPtrSyncW d } }

/-- SyncW2R (R86). -/
def Queue.syncW2R (g : QueueParams) (d : Nat) (q : Queue) : Queue :=
  match q.arbiter with
  | .semaphore _ => q
  | .grayCdc p => { q with arbiter := .grayCdc { p with wPtrSyncR := syncPointer g p.wPtr p.wPtrSyncR d } }

end Sys2Proof.Machine
end

