-- ==== Sys2Proof/Machine/Consumer.lean ====
section
/-! DEFINITION. The consumer-port commands (42_queue_consumer.md), on the queue of the scheduled port: A on C_A, B on C_B. -/

namespace Sys2Proof.Machine

/-- The instance of the scheduled port. -/
def State.consumed (s : State) : QueueId := queueOf s.turn.port

/-- An access to the held read slot: RACCESS_NOT_HELD if it is not held (R77 to R80), else the slot operation. -/
def readAccess (i : Instr) (s : State) (op : QueueParams → Nat → Queue → Except Fault Reply) :
    Host.Outcome State Fault Refusal :=
  let x := s.consumed
  let g := s.cfg.queue x
  let q := s.queue x
  command i s
    (if q.rHeld then
      match op g (q.readSlot g) q with
      | .ok r => .respond r.st r.value (s.setQueue x r.q)
      | .error f => .stop f
    else .raise .raccessNotHeld)

/-- ACQR (R75, R84). -/
def execAcqr (s : State) : Host.Outcome State Fault Refusal :=
  let x := s.consumed
  let q := s.queue x
  command .acqr s
    (if q.rHeld then .raise .acqrWhileHeld
    else if q.canAcquireRead (s.cfg.queue x) then .respond .ok 0 (s.setQueue x q.acquireRead)
    else .hold)

/-- RELR (R76, R85). -/
def execRelr (s : State) : Host.Outcome State Fault Refusal :=
  let x := s.consumed
  let q := s.queue x
  command .relr s
    (if q.rHeld then .respond .ok 0 (s.setQueue x (q.releaseRead (s.cfg.queue x)))
    else .raise .relrNotHeld)

/-- REMB (R77). -/
def execRemb (s : State) : Host.Outcome State Fault Refusal :=
  readAccess .remb s cbRemoveByte

/-- PEEK (R78). -/
def execPeek (s : State) : Host.Outcome State Fault Refusal :=
  readAccess .peek s cbPeekByte

/-- RFULL (R79). -/
def execRfull (s : State) : Host.Outcome State Fault Refusal :=
  readAccess .rfull s (fun g j q => .ok (cbIsFull g j q))

/-- REMPTY (R80). -/
def execRempty (s : State) : Host.Outcome State Fault Refusal :=
  readAccess .rempty s (fun _ j q => .ok (cbIsEmpty j q))

end Sys2Proof.Machine
end

