-- ==== Sys2Proof/Machine/FrameParser.lean ====
section
/-! DEFINITION. The FrameParser's input step (44_frame_parser.md section 1 and 2): PBYTE and the per-state rules. -/

namespace Sys2Proof.Machine

/-- PREAMBLE_1 (R8). -/
def preamble1 : Byte := 0x03

/-- PREAMBLE_2 (R8). -/
def preamble2 : Byte := 0xAF

/-- PREAMBLE_3 (R8). -/
def preamble3 : Byte := 0xEF

/-- HEADER_SIZE (R8). -/
def headerSize : Nat := 5

/-- The framing errors (R9). -/
inductive FramingError where
  | badPreamble1
  | badPreamble2
  | badPreamble3
  | badSize
  | checksumMismatch
deriving DecidableEq, Repr

/-- The numeric kinds of rule R9. -/
def FramingError.kind (e : FramingError) : Nat :=
  match e with
  | .badPreamble1 => 1
  | .badPreamble2 => 2
  | .badPreamble3 => 3
  | .badSize => 4
  | .checksumMismatch => 5

/-- The length field of an error frame: the negated kind, in two's complement (R9, R91; log 17). -/
def FramingError.length (e : FramingError) : Word := BitVec.ofInt 16 (-(e.kind : Int))

/-- `emit(len)` (R91). -/
def Parser.emitFrame (p : Parser) (len : Word) : Parser := { p with pend := true, pendLen := len }

/-- Emit an error frame and go to ErrorRecovery; the byte is consumed and not examined again (R92 to R94, R96). -/
def Parser.fail (p : Parser) (e : FramingError) : Parser :=
  { p.emitFrame e.length with st := .errorRecovery }

/-- State AwaitPreamble1 (R92). -/
def inputAwaitPreamble1 (b : Byte) (p : Parser) : Parser :=
  if b = preamble1 then { p with csum := preamble1, st := .awaitPreamble2 } else p.fail .badPreamble1

/-- State AwaitPreamble2 (R93). -/
def inputAwaitPreamble2 (b : Byte) (p : Parser) : Parser :=
  if b = preamble2 then { p with csum := p.csum ^^^ b, st := .awaitPreamble3 } else p.fail .badPreamble2

/-- State AwaitPreamble3 (R94). -/
def inputAwaitPreamble3 (b : Byte) (p : Parser) : Parser :=
  if b = preamble3 then { p with csum := p.csum ^^^ b, st := .awaitCommand } else p.fail .badPreamble3

/-- State AwaitCommand (R95): any byte is accepted (I5). -/
def inputAwaitCommand (b : Byte) (p : Parser) : Parser :=
  { p with csum := p.csum ^^^ b, st := .awaitLength }

/-- State AwaitLength (R96): `b − HEADER_SIZE ≥ 1` over the integers. The bytes of an earlier attempt hold no value once this
one begins to collect (R30, I8). DEDUCED, safe (log 14). -/
def inputAwaitLength (b : Byte) (p : Parser) : Parser :=
  if headerSize + 1 ≤ b.toNat then
    { p with csum := p.csum ^^^ b, plen := b, idx := 0, st := .collectPayload, data := [] }
  else p.fail .badSize

/-- State CollectPayload (R97). `n == P.plen − 5` is an equation of integers. -/
def inputCollectPayload (b : Byte) (p : Parser) : Except Fault Parser :=
  match payloadWrite p.data p.idx.toNat b with
  | .error f => .error f
  | .ok data' =>
    let c := p.csum ^^^ b
    let n := p.idx.toNat + 1
    let p' := { p with data := data', idx := BitVec.ofNat 8 n, csum := c }
    if n + headerSize = p.plen.toNat then
      .ok { p'.emitFrame (if c = 0 then zext16 p.plen else FramingError.checksumMismatch.length)
            with st := .awaitPreamble1 }
    else .ok p'

/-- State ErrorRecovery (R98). -/
def inputErrorRecovery (b : Byte) (p : Parser) : Parser :=
  if b = preamble1 then { p with csum := preamble1, st := .awaitPreamble2 } else p

/-- One input byte, by the state of the parser (R90). -/
def Parser.input (b : Byte) (p : Parser) : Except Fault Parser :=
  match p.st with
  | .awaitPreamble1 => .ok (inputAwaitPreamble1 b p)
  | .awaitPreamble2 => .ok (inputAwaitPreamble2 b p)
  | .awaitPreamble3 => .ok (inputAwaitPreamble3 b p)
  | .awaitCommand => .ok (inputAwaitCommand b p)
  | .awaitLength => .ok (inputAwaitLength b p)
  | .collectPayload => inputCollectPayload b p
  | .errorRecovery => .ok (inputErrorRecovery b p)

/-- PBYTE b (R90): it holds while a frame is pending. -/
def execPbyte (b : Byte) (s : State) : Host.Outcome State Fault Refusal :=
  command (.pbyte b) s
    (if s.parser.pend then .hold
    else
      match s.parser.input b with
      | .ok p => .respond .ok 0 { s with parser := p }
      | .error f => .stop f)

end Sys2Proof.Machine
end

