-- ==== Sys2Proof/Machine/Producer.lean ====
section
/-! DEFINITION. The producer-port commands (41_queue_producer.md). The only external producer port is P_B, so X = B. -/

namespace Sys2Proof.Machine

/-- An access to the held write slot of B: WACCESS_NOT_HELD if it is not held (R70 to R72), else the slot operation. -/
def writeAccess (i : Instr) (s : State) (op : QueueParams → Nat → Queue → Except Fault Reply) :
    Host.Outcome State Fault Refusal :=
  command i s
    (if s.queueB.wHeld then
      match op s.cfg.b (s.queueB.writeSlot s.cfg.b) s.queueB with
      | .ok r => .respond r.st r.value { s with queueB := r.q }
      | .error f => .stop f
    else .raise .waccessNotHeld)

/-- AcquireWriteSlot (R68, R73): ACQW_WHILE_HELD, then availability, and `unavailable` where there is no slot. -/
def acquireWriteSlot (s : State) (unavailable : Action) : Action :=
  if s.queueB.wHeld then .raise .acqwWhileHeld
  else if s.queueB.canAcquireWrite s.cfg.b then .respond .ok 0 { s with queueB := s.queueB.acquireWrite }
  else unavailable

/-- ACQW (R68, R84). -/
def execAcqw (s : State) : Host.Outcome State Fault Refusal :=
  command .acqw s (acquireWriteSlot s .hold)

/-- RELW (R69, R85). -/
def execRelw (s : State) : Host.Outcome State Fault Refusal :=
  command .relw s
    (if s.queueB.wHeld then .respond .ok 0 { s with queueB := s.queueB.releaseWrite s.cfg.b }
    else .raise .relwNotHeld)

/-- ADDB b (R70). -/
def execAddb (b : Byte) (s : State) : Host.Outcome State Fault Refusal :=
  writeAccess (.addb b) s (fun g j q => cbAddByte g j b q)

/-- WFULL (R71). -/
def execWfull (s : State) : Host.Outcome State Fault Refusal :=
  writeAccess .wfull s (fun g j q => .ok (cbIsFull g j q))

/-- WEMPTY (R72). -/
def execWempty (s : State) : Host.Outcome State Fault Refusal :=
  writeAccess .wempty s (fun _ j q => .ok (cbIsEmpty j q))

/-- ACQWT (R73, R84): as ACQW; with no slot available, the turn's draw decides between hold and TIMEOUT (log 9). -/
def execAcqwt (s : State) : Host.Outcome State Fault Refusal :=
  command .acqwt s (acquireWriteSlot s (if s.turn.timeout then .respond .timeout 0 s else .hold))

end Sys2Proof.Machine
end

