-- ==== Sys2Proof/Machine/Dispatch.lean ====
section
/-! DEFINITION. One arm per command of rule R50. -/

namespace Sys2Proof.Machine

def exec (i : Instr) (s : State) : Host.Outcome State Fault Refusal :=
  match i with
  | .acqw => Sys2Proof.Machine.execAcqw s
  | .relw => Sys2Proof.Machine.execRelw s
  | .addb b => Sys2Proof.Machine.execAddb b s
  | .wfull => Sys2Proof.Machine.execWfull s
  | .wempty => Sys2Proof.Machine.execWempty s
  | .acqwt => Sys2Proof.Machine.execAcqwt s
  | .acqr => Sys2Proof.Machine.execAcqr s
  | .relr => Sys2Proof.Machine.execRelr s
  | .remb => Sys2Proof.Machine.execRemb s
  | .peek => Sys2Proof.Machine.execPeek s
  | .rfull => Sys2Proof.Machine.execRfull s
  | .rempty => Sys2Proof.Machine.execRempty s
  | .pbyte b => Sys2Proof.Machine.execPbyte b s

end Sys2Proof.Machine
end

