-- ==== Sys2Proof/Machine/Emission.lean ====
section
/-! DEFINITION. The steps that no command word starts: EMIT (R100, R101) and SYNC (R86). -/

namespace Sys2Proof.Machine

/-- `data[k] … data[k + n − 1]` of the payload buffer. -/
def readPayload (data : Memory) (k n : Nat) : Except Fault (List Byte) :=
  match n with
  | 0 => .ok []
  | n + 1 =>
    match payloadRead data k with
    | .error f => .error f
    | .ok v =>
      match readPayload data (k + 1) n with
      | .error f => .error f
      | .ok rest => .ok (v :: rest)

/-- `Record(len, data)` (R101): the length field, most significant byte first, and for `len > 0` the L − 5 payload bytes. -/
def record (len : Word) (data : Memory) : Except Fault (List Byte) :=
  if 0 < len.toInt then
    match readPayload data 0 (len.toNat - headerSize) with
    | .ok payload => .ok (hi8 len :: lo8 len :: payload)
    | .error f => .error f
  else .ok [hi8 len, lo8 len]

/-- EMIT is enabled (R100). -/
def State.emitEnabled (s : State) : Bool :=
  !s.halted && s.parser.pend && s.queueA.canAcquireWrite s.cfg.a

/-- EMIT (R100): write the record into the write slot of A, hand the slot over, clear `pend`, in one step. Where it is not
enabled it has no step. The statuses of CB_AddByte are not looked at: "every call returns OK". -/
def emitStep (s : State) : Host.Outcome State Fault Refusal :=
  if s.emitEnabled then
    match record s.parser.pendLen s.parser.data with
    | .error f => .fault f
    | .ok bytes =>
      match cbWriteBlock s.cfg.a (s.queueA.writeSlot s.cfg.a) bytes s.queueA with
      | .error f => .fault f
      | .ok (_, q) =>
        .next { s with
          queueA := (q.acquireWrite.releaseWrite s.cfg.a),
          parser := { s.parser with pend := false } }
  else .next s

/-- SyncR2W of queue `x` (R86): no step while the block is halted (R107). -/
def syncR2WStep (x : QueueId) (d : Nat) (s : State) : State :=
  if s.halted then s else s.setQueue x ((s.queue x).syncR2W (s.cfg.queue x) d)

/-- SyncW2R of queue `x` (R86). -/
def syncW2RStep (x : QueueId) (d : Nat) (s : State) : State :=
  if s.halted then s else s.setQueue x ((s.queue x).syncW2R (s.cfg.queue x) d)

end Sys2Proof.Machine
end

