-- ==== Sys2Proof/Machine/Schedule.lean ====
section
/-! DEFINITION. The step model (R37): which event comes next, and what each event does. -/

namespace Sys2Proof.Machine

/-- The event that comes next: the head of the tape, else the free schedule's (log 2). -/
def State.nextEvent (s : State) : Event :=
  match s.tape with
  | e :: _ => e
  | [] => Config.freeEvent s.drawn

/-- The state once the next event has been taken from its source. -/
def State.advance (s : State) : State :=
  match s.tape with
  | _ :: rest => { s with tape := rest }
  | [] => { s with drawn := s.drawn + 1 }

/-- The command word presented on the scheduled port is illegal in itself (R52 (a), (b), (d)): ILLEGAL_COMMAND, unless the
block is halted (R106). -/
def illegalStep (w : Word) (s : State) : Host.Outcome State Fault Refusal :=
  if s.halted then .next s else .next (s.raise s.turn.port w .illegalCommand)

/-- The dispatch of rules R67, R74 and R90 on the scheduled port: decode the presented command and run it. A port with
no command has no step (log 3). -/
def dispatch (s : State) : Host.Outcome State Fault Refusal :=
  match (s.port s.turn.port).cmd with
  | none => .next s
  | some w =>
    match decode w with
    | .ok i => exec i s
    | .error _ => illegalStep w s

/-- The host presents a command (R46): at most one per port (R26). A second one on a busy port is outside the model (I18). -/
def presentCommand (p : Port) (w : Word) (s : State) : Host.Outcome State Fault Refusal :=
  match (s.port p).cmd with
  | none => .next (s.setPort p { cmd := some w, rsp := none })
  | some _ => .refused (.portBusy p)

/-- What an event does (R36, R37). -/
def runEvent (e : Event) (s : State) : Host.Outcome State Fault Refusal :=
  match e with
  | .turn p timeout => dispatch { s with turn := { port := p, timeout := timeout } }
  | .emit => emitStep s
  | .syncR2W x d => .next (syncR2WStep x d s)
  | .syncW2R x d => .next (syncW2RStep x d s)
  | .present p w => presentCommand p w s
  | .reset => .next s.blockReset

/-- The state in which the command word of `w` waits on its home port and that port has the next turn. DESIGN CHOICE, unsafe
(log 15): R73 leaves the draw of ACQWT free, and the turn placed here has the draw hold; only ACQWT with no slot available
reads it. A tape that begins with `.turn .pb true` gives the other draw. -/
def State.presentNext (s : State) (w : Word) : State :=
  { s.setPort (homePort w) { cmd := some w, rsp := none } with
    tape := .turn (homePort w) false :: s.tape }

end Sys2Proof.Machine
end

