-- ==== Sys2Proof/Machine/Step.lean ====
section
/-! DEFINITION. One step of the block, and where a step finds its next command. -/

namespace Sys2Proof.Machine

/-- One step (R37): take the next event and carry it out. -/
def step (s : State) : Host.Outcome State Fault Refusal := runEvent s.nextEvent s.advance

/-- `s` with the command whose bits are `w` presented on a port where it is legal and that port's turn next, with the
draw hold for ACQWT (DESIGN CHOICE, unsafe: log 15). -/
def State.withFetchWord (s : State) (nbits w : Nat) : State :=
  s.presentNext (BitVec.ofNat 16 (w % 2 ^ nbits))

end Sys2Proof.Machine
end

