-- ==== Sys2Proof/Machine/Assembler.lean ====
section
/-! DEFINITION. The assembler line and the pseudo-operations (R55 to R57): text to `Line`, `Line` to command words. The text
is read as a list of characters. Blanks around the parts of a line are ignored (DESIGN CHOICE, safe: log 20). -/

namespace Sys2Proof.Machine

/-- The commands an operation stands for, in order (R56: n ADDBs; R57: n REMBs). -/
def Op.expand (o : Op) : List Instr :=
  match o with
  | .command i => [i]
  | .wblk bytes => bytes.map Instr.addb
  | .rblk n => List.replicate n Instr.remb

/-- The command words of a line (R55). -/
def Line.words (l : Line) : List Word := (Op.expand l.op).map encode

/-- A line is well formed when its operation belongs on its port (R45, R55 to R57). -/
def Line.wellFormed (l : Line) : Bool :=
  match l.op with
  | .command i => i.belongsOn l.port
  | .wblk _ => decide (l.port = .pb)
  | .rblk _ => decide (l.port = .ca ∨ l.port = .cb)

/-- One admitted schedule of a list of lines: every command is presented and then has its turn, in the order of the lines
(95_test_vectors.md section 9). EMIT and SYNC steps, and turns for held commands, are the schedule's own.
DESIGN CHOICE, unsafe (log 15): every turn has the draw hold, which R73 leaves free and only ACQWT with no slot reads. -/
def Line.events (l : Line) : List Event :=
  (Line.words l).flatMap (fun w => [Event.present l.port w, Event.turn l.port false])

/-- Split at every occurrence of a character. -/
def splitAt (c : Char) (cs : List Char) : List (List Char) :=
  match cs with
  | [] => [[]]
  | d :: rest =>
    if d = c then [] :: splitAt c rest
    else
      match splitAt c rest with
      | [] => [[d]]
      | w :: ws => (d :: w) :: ws

/-- Drop the blanks at both ends. -/
def trimBlanks (cs : List Char) : List Char :=
  ((cs.dropWhile (· = ' ')).reverse.dropWhile (· = ' ')).reverse

/-- The value of a decimal digit. -/
def decimalDigit (c : Char) : Option Nat :=
  if '0'.toNat ≤ c.toNat ∧ c.toNat ≤ '9'.toNat then some (c.toNat - '0'.toNat) else none

/-- The value of a hexadecimal digit. -/
def hexDigit (c : Char) : Option Nat :=
  if 'A'.toNat ≤ c.toNat ∧ c.toNat ≤ 'F'.toNat then some (c.toNat - 'A'.toNat + 10)
  else if 'a'.toNat ≤ c.toNat ∧ c.toNat ≤ 'f'.toNat then some (c.toNat - 'a'.toNat + 10)
  else decimalDigit c

/-- The digits of a decimal number, after the value read so far. -/
def decimalDigits (acc : Nat) (cs : List Char) : Option Nat :=
  match cs with
  | [] => some acc
  | c :: rest => (decimalDigit c).bind (fun d => decimalDigits (10 * acc + d) rest)

/-- A decimal number of at least one digit. DESIGN CHOICE, safe (log 20): leading zeros are allowed, as R55 and R57 do not
say. -/
def parseDecimal (cs : List Char) : Option Nat := if cs = [] then none else decimalDigits 0 cs

/-- `<imm8>`: `0xHH`, or a decimal in 0..255 (R55). DESIGN CHOICE, safe (log 20): the decimal may have any number of leading
zeros, the hexadecimal digits either case. -/
def parseImm8 (cs : List Char) : Option Byte :=
  match cs with
  | ['0', 'x', h, l] =>
    (hexDigit h).bind (fun a => (hexDigit l).bind (fun b => some (BitVec.ofNat 8 (16 * a + b))))
  | _ => (parseDecimal cs).bind (fun v => if v ≤ 255 then some (BitVec.ofNat 8 v) else none)

/-- The bytes of `WBLK b0, b1, …` (R56). -/
def parseBytes (parts : List (List Char)) : Option (List Byte) :=
  match parts with
  | [] => some []
  | p :: rest => (parseImm8 (trimBlanks p)).bind (fun b => (parseBytes rest).map (fun bs => b :: bs))

/-- `<port>` (R55). -/
def parsePort (cs : List Char) : Option Port :=
  if cs = "I".toList then some .i
  else if cs = "CA".toList then some .ca
  else if cs = "PB".toList then some .pb
  else if cs = "CB".toList then some .cb
  else none

/-- The mnemonics without operand (R50). -/
def bareMnemonics : List (List Char × Instr) :=
  [("ACQW".toList, .acqw), ("RELW".toList, .relw), ("WFULL".toList, .wfull), ("WEMPTY".toList, .wempty),
    ("ACQWT".toList, .acqwt), ("ACQR".toList, .acqr), ("RELR".toList, .relr), ("REMB".toList, .remb),
    ("PEEK".toList, .peek), ("RFULL".toList, .rfull), ("REMPTY".toList, .rempty)]

/-- The operation after the port: a mnemonic and its operand, `<imm8>` "present exactly for ADDB and PBYTE" (R55), or a
pseudo-operation (R56, R57). DESIGN CHOICE, safe (log 20): R57 gives the count of RBLK no written form and no bound; here it
is a decimal of any size. R56 does not say whether WBLK may have no byte; here it may. -/
def parseOp (cs : List Char) : Option Op :=
  let name := cs.takeWhile (· ≠ ' ')
  let operand := trimBlanks (cs.drop name.length)
  if name = "ADDB".toList then (parseImm8 operand).map (fun b => .command (.addb b))
  else if name = "PBYTE".toList then (parseImm8 operand).map (fun b => .command (.pbyte b))
  else if name = "WBLK".toList then
    if operand = [] then some (.wblk []) else (parseBytes (splitAt ',' operand)).map .wblk
  else if name = "RBLK".toList then (parseDecimal operand).map .rblk
  else if operand = [] then (bareMnemonics.lookup name).map .command
  else none

/-- A line `<port>: <operation>` (R55). -/
def parseLine (cs : List Char) : Option Line :=
  match splitAt ':' cs with
  | [p, o] =>
    (parsePort (trimBlanks p)).bind (fun port => (parseOp (trimBlanks o)).map (fun op => { port := port, op := op }))
  | _ => none

end Sys2Proof.Machine
end

