-- ==== Sys2Proof/Safety.lean ====
section
/-! DEFINITION. The terms claims use: what a good state is (the invariants of 10_state.md and R87), what the queues hold
(R40), runs, fairness (R44), and the semaphore view of a GRAY_CDC block (R87). -/

namespace Sys2Proof.Machine

/-! ## Good states -/

/-- A safe state: "a model should treat every reached state with `FAULT.F = 1` as a failure of the program" (R107). -/
def State.Safe (s : State) : Prop := s.halted = false

/-- The CircularByteBuffer invariant (R14). -/
def Slot.Wf (cap : Nat) (s : Slot) : Prop :=
  s.cnt.toNat ≤ cap ∧ s.rd.toNat < cap ∧ s.wr.toNat < cap ∧ s.wr.toNat = (s.rd.toNat + s.cnt.toNat) % cap

/-- The address of the `i`-th oldest byte of slot `j` (R32, R63). -/
def Queue.byteAddr (g : QueueParams) (q : Queue) (j i : Nat) : Nat :=
  slotAddr g j (((q.slot j).rd.toNat + i) % g.cap)

/-- `F`, the number of filled slots (R17, R82). -/
def Queue.filled (g : QueueParams) (q : Queue) : Nat :=
  match q.arbiter with
  | .semaphore c => c.semR.toNat + q.rHeld.toNat
  | .grayCdc p => pointerDistance g p.wPtr p.rPtr

/-- The legal counters and indices of a SEMAPHORE instance: R15, R16, R17. -/
def Semaphores.Wf (g : QueueParams) (c : Semaphores) (wHeld rHeld : Bool) : Prop :=
  c.wIdx.toNat < g.n ∧ c.rIdx.toNat < g.n ∧
  c.semW.toNat + c.semR.toNat + wHeld.toNat + rHeld.toNat = g.n ∧
  c.wIdx.toNat = (c.rIdx.toNat + (c.semR.toNat + rHeld.toNat)) % g.n

/-- The legal pointers of a GRAY_CDC instance: in range (R25), in the order of R87 (a) (the three distances from
`rPtrSyncW` on to `rPtr`, `wPtrSyncR` and `wPtr` add up to at most N, less the slot held for writing), and a slot held for
reading is one the consumer has seen. -/
def GrayPointers.Wf (g : QueueParams) (p : GrayPointers) (wHeld rHeld : Bool) : Prop :=
  (p.wPtr.toNat < 2 * g.n ∧ p.rPtr.toNat < 2 * g.n ∧ p.rPtrSyncW.toNat < 2 * g.n ∧ p.wPtrSyncR.toNat < 2 * g.n) ∧
  pointerDistance g p.rPtr p.rPtrSyncW + pointerDistance g p.wPtrSyncR p.rPtr +
    pointerDistance g p.wPtr p.wPtrSyncR + wHeld.toNat ≤ g.n ∧
  rHeld.toNat ≤ pointerDistance g p.wPtrSyncR p.rPtr

/-- The arbiter is of the configured kind and legal. -/
def Queue.ArbiterWf (g : QueueParams) (q : Queue) : Prop :=
  match q.arbiter with
  | .semaphore c => g.arbiter = .semaphore ∧ c.Wf g q.wHeld q.rHeld
  | .grayCdc p => g.arbiter = .grayCdc ∧ p.Wf g q.wHeld q.rHeld

/-- The invariants of one BufferQueue instance. -/
structure Queue.Wf (g : QueueParams) (q : Queue) : Prop where
  slots_length : q.slots.length = g.n
  /-- R14 for every slot -/
  slots_wf : ∀ j < g.n, (q.slot j).Wf g.cap
  /-- R16, R17, R87 (a) -/
  arbiter_wf : q.ArbiterWf g
  /-- R19: every slot neither filled nor held for writing is empty -/
  idle_slots_empty : ∀ i < g.n, q.filled g + q.wHeld.toNat ≤ i → q.slot ((q.readSlot g + i) % g.n) = Slot.empty
  /-- R30: a byte a slot counts has been written -/
  bytes_written : ∀ j < g.n, ∀ i < (q.slot j).cnt.toNat, (q.ram.read (q.byteAddr g j i)).isSome = true
  /-- the slot RAM is in canonical form and within its array (R31) -/
  ram_wf : q.ram.wf
  ram_range : ∀ c ∈ q.ram, c.1 < ramSize g

/-- `pendLen` of a pending frame: an error kind negated, or 6..255 (R22 (c)). -/
def legalFrameLength (len : Word) : Prop :=
  len.toInt ∈ [-1, -2, -3, -4, -5] ∨ (6 ≤ len.toInt ∧ len.toInt ≤ 255)

/-- The invariants of the FrameParser: the ranges of R20, and R22. -/
structure Parser.Wf (p : Parser) : Prop where
  plen_range : p.plen = 0 ∨ 6 ≤ p.plen.toNat
  idx_range : p.idx.toNat ≤ payloadSize
  /-- R22 (a) -/
  collecting : p.st = .collectPayload → 6 ≤ p.plen.toNat ∧ p.idx.toNat + headerSize < p.plen.toNat
  /-- the bytes collected so far have been written (R30) -/
  collected : p.st = .collectPayload → ∀ k < p.idx.toNat, (p.data.read k).isSome = true
  /-- R22 (b) -/
  pending_state : p.pend = true → p.st = .awaitPreamble1 ∨ p.st = .errorRecovery
  /-- R22 (c) -/
  pending_length : p.pend = true → legalFrameLength p.pendLen
  /-- R22 (d) -/
  pending_data : p.pend = true → 0 < p.pendLen.toInt →
    ∀ k < p.pendLen.toNat - headerSize, (p.data.read k).isSome = true
  data_wf : p.data.wf
  data_range : ∀ c ∈ p.data, c.1 < payloadSize

/-- The ports that can raise a fault code (R105, column "raised by"). -/
def FaultCode.raisedOn (c : FaultCode) (p : Port) : Bool :=
  match c with
  | .acqwWhileHeld | .relwNotHeld | .waccessNotHeld => decide (p = .pb)
  | .acqrWhileHeld | .relrNotHeld | .raccessNotHeld => decide (p = .ca ∨ p = .cb)
  | .illegalCommand => true

/-- FAULT and FCMD hold their reset values, or FAULT is the record of one raise (R24, R105, R107). -/
def State.FaultWf (s : State) : Prop :=
  (s.fault = 0 ∧ s.fcmd = 0) ∨ ∃ p c, FaultCode.raisedOn c p = true ∧ s.fault = faultWord p c

/-- A port has a command or a response, not both, and the response's upper bits are 0 (R26, R48). -/
def PortState.Wf (ps : PortState) : Prop :=
  (ps.cmd = none ∨ ps.rsp = none) ∧ ∀ r, ps.rsp = some r → r.extractLsb' 10 6 = 0

/-- The invariant of the block. -/
structure State.Inv (s : State) : Prop where
  fault_wf : s.FaultWf
  parser_wf : s.parser.Wf
  queueA_wf : s.queueA.Wf s.cfg.a
  /-- "A.wHeld == 0 always: P is A's only producer" (R100) -/
  queueA_not_held : s.queueA.wHeld = false
  queueB_wf : s.queueB.Wf s.cfg.b
  ports_wf : ∀ p, (s.port p).Wf

/-! ## What a queue holds -/

/-- The bytes of slot `j`, oldest first. -/
def Queue.slotBytes (g : QueueParams) (q : Queue) (j : Nat) : List (Option Byte) :=
  (List.range (q.slot j).cnt.toNat).map (fun i => q.ram.read (q.byteAddr g j i))

/-- The filled slots' bytes, in the order the producer released them (R17). -/
def Queue.contents (g : QueueParams) (q : Queue) : List (List (Option Byte)) :=
  (List.range (q.filled g)).map (fun i => q.slotBytes g ((q.readSlot g + i) % g.n))

/-! ## Runs -/

/-- Carry out events one after the other. -/
def runEvents (es : List Event) (s : State) : Host.Outcome State Fault Refusal :=
  match es with
  | [] => .next s
  | e :: rest =>
    match runEvent e s with
    | .next t => runEvents rest t
    | .fault f => .fault f
    | .refused r => .refused r

/-- The response words that the commands completing on port `p` give in a run, in order (R46, R48). -/
def completions (p : Port) (es : List Event) (s : State) : List Word :=
  match es with
  | [] => []
  | e :: rest =>
    match runEvent e s with
    | .next t => (if (s.port p).rsp = none then (t.port p).rsp.toList else []) ++ completions p rest t
    | .fault _ => []
    | .refused _ => []

/-- The bytes a block read returns: the DATA fields of the responses with ST = OK, in order (R57). -/
def okBytes (rs : List Word) : List Byte :=
  (rs.filter (fun r => decide (r.extractLsb' 8 2 = 0))).map (fun r => r.extractLsb' 0 8)

/-- PBYTE for each byte in turn, with no other step in between. -/
def feedBytes (bytes : List Byte) (s : State) : Option State :=
  match bytes with
  | [] => some s
  | b :: rest =>
    match exec (.pbyte b) s with
    | .next t => feedBytes rest t
    | .fault _ => none
    | .refused _ => none

/-- The event completes an acquire of a write slot of queue `x`: EMIT into A, ACQW or ACQWT on P_B (R81). -/
def acquireCompletes (x : QueueId) (e : Event) (s : State) : Bool :=
  match runEvent e s with
  | .next t =>
    match x with
    | .a => decide (e = .emit) && s.parser.pend && !t.parser.pend
    | .b => !s.queueB.wHeld && t.queueB.wHeld
  | .fault _ => false
  | .refused _ => false

/-- The event completes a RELR on queue `x`'s consumer port. -/
def releaseCompletes (x : QueueId) (e : Event) (s : State) : Bool :=
  match runEvent e s with
  | .next t => (s.queue x).rHeld && !(t.queue x).rHeld
  | .fault _ => false
  | .refused _ => false

/-- How many events of a run satisfy `p`; the run ends where an event stops. -/
def countEvents (p : Event → State → Bool) (es : List Event) (s : State) : Nat :=
  match es with
  | [] => 0
  | e :: rest =>
    (p e s).toNat +
      match runEvent e s with
      | .next t => countEvents p rest t
      | .fault _ => 0
      | .refused _ => 0

/-! ## Fairness -/

/-- The agents of rule R36. -/
inductive Agent where
  | port (p : Port)
  | emit
  | syncR2W (x : QueueId)
  | syncW2R (x : QueueId)
deriving DecidableEq, Repr

/-- The agent that takes an event's step; inputs of the host have none. -/
def agentOf (e : Event) : Option Agent :=
  match e with
  | .turn p _ => some (.port p)
  | .emit => some .emit
  | .syncR2W x _ => some (.syncR2W x)
  | .syncW2R x _ => some (.syncW2R x)
  | .present _ _ => none
  | .reset => none

/-- The event is a step: it does not just leave the block as it is (a hold, a halted block, a disabled EMIT or SYNC). -/
def StepEnabled (e : Event) (s : State) : Prop := ¬ ∃ t : Turn, runEvent e s = .next { s with turn := t }

/-- The agent has a step now. -/
def Agent.Enabled (a : Agent) (s : State) : Prop := ∃ e, agentOf e = some a ∧ StepEnabled e s

/-- An endless run: event `n` leads from state `n` to state `n + 1`. -/
def IsRun (events : Nat → Event) (states : Nat → State) : Prop :=
  ∀ n, runEvent (events n) (states n) = .next (states (n + 1))

/-- Weak fairness (R44): an agent that stays enabled takes a step eventually. -/
def WeaklyFair (events : Nat → Event) (states : Nat → State) : Prop :=
  ∀ a n, (∀ m, n ≤ m → a.Enabled (states m)) →
    ∃ m, n ≤ m ∧ agentOf (events m) = some a ∧ StepEnabled (events m) (states m)

/-! ## The semaphore view -/

/-- The counters of the SEMAPHORE instance with the same history (R87 (c)): `wIdx = wPtr mod N` and `rIdx = rPtr mod N` (R82),
and by R16 and R17 `semW = N − F − wHeld` and `semR = F − rHeld` with the true F. The views `semW_v` and `semR_v` of R82,
which the ports see, are `GrayPointers.semWView` and `GrayPointers.semRView`. -/
def Queue.toSemaphore (g : QueueParams) (q : Queue) : Queue :=
  match q.arbiter with
  | .semaphore _ => q
  | .grayCdc p =>
    { q with
      arbiter := .semaphore
        { wIdx := BitVec.ofNat 8 (p.wPtr.toNat % g.n),
          rIdx := BitVec.ofNat 8 (p.rPtr.toNat % g.n),
          semW := BitVec.ofNat 9 (g.n - pointerDistance g p.wPtr p.rPtr - q.wHeld.toNat),
          semR := BitVec.ofNat 9 (pointerDistance g p.wPtr p.rPtr - q.rHeld.toNat) } }

/-- The same parameters with ARBITER = SEMAPHORE. -/
def Params.toSemaphore (p : Params) : Params :=
  { p with a := { p.a with arbiter := .semaphore }, b := { p.b with arbiter := .semaphore } }

theorem Params.toSemaphore_wellFormed (p : Params) (h : p.wellFormed = true) : (Params.toSemaphore p).wellFormed = true := by
  simp_all [Params.toSemaphore, Params.wellFormed, QueueParams.wellFormed, QueueParams.legalSlots,
    QueueParams.legalCapacity, QueueParams.legalArbiter]

/-- The configuration with both arbiters SEMAPHORE. -/
def Config.toSemaphore (c : Config) : Config :=
  { toParams := Params.toSemaphore c.toParams, legal := Params.toSemaphore_wellFormed c.toParams c.legal }

/-- The block with both queues as SEMAPHORE instances of the same history. -/
def State.toSemaphore (s : State) : State :=
  { s with cfg := Config.toSemaphore s.cfg, queueA := s.queueA.toSemaphore s.cfg.a,
           queueB := s.queueB.toSemaphore s.cfg.b }

/-! ## The spec's tables, in the terms of claims -/

/-- `LegalOps(p)`: the "legal on" column of rule R50, with ACQWT only if TIMED_ACQUIRE = PRESENT (R52). -/
def legalOpcodes (timed : Bool) (p : Port) : List Nat :=
  match p with
  | .i => [0xE]
  | .ca | .cb => [0x8, 0x9, 0xA, 0xB, 0xC, 0xD]
  | .pb => if timed then [0x1, 0x2, 0x3, 0x4, 0x5, 0x6] else [0x1, 0x2, 0x3, 0x4, 0x5]

/-- The held-state check of a command (R106, item 3), with the fault code of R105. `q` is the queue it acts on. -/
def heldViolation (i : Instr) (q : Queue) : Option FaultCode :=
  match i with
  | .acqw | .acqwt => if q.wHeld then some .acqwWhileHeld else none
  | .relw => if q.wHeld then none else some .relwNotHeld
  | .addb _ | .wfull | .wempty => if q.wHeld then none else some .waccessNotHeld
  | .acqr => if q.rHeld then some .acqrWhileHeld else none
  | .relr => if q.rHeld then none else some .relrNotHeld
  | .remb | .peek | .rfull | .rempty => if q.rHeld then none else some .raccessNotHeld
  | .pbyte _ => none

/-- The response (OK, 1) or (OK, 0) of a predicate (R60, R61, R48). -/
def okWord (c : Bool) : Word := if c then 0x0001#16 else 0x0000#16

/-- The reset values of one queue (R117, R89, R30). -/
structure Queue.IsReset (g : QueueParams) (q : Queue) : Prop where
  slots_length : q.slots.length = g.n
  slots : ∀ j < g.n, q.slot j = { rd := 0, wr := 0, cnt := 0 }
  arbiter : match q.arbiter with
    | .semaphore c => g.arbiter = .semaphore ∧ c.wIdx = 0 ∧ c.rIdx = 0 ∧ c.semW.toNat = g.n ∧ c.semR = 0
    | .grayCdc p => g.arbiter = .grayCdc ∧ p.wPtr = 0 ∧ p.rPtr = 0 ∧ p.rPtrSyncW = 0 ∧ p.wPtrSyncR = 0
  not_held : q.wHeld = false ∧ q.rHeld = false
  storage : ∀ a, q.ram.read a = none

/-- The reset values of the block (R117, R30). -/
structure State.IsReset (s : State) : Prop where
  fault_registers : s.fault = 0 ∧ s.fcmd = 0
  parser : s.parser.st = .awaitPreamble1 ∧ s.parser.csum = 0 ∧ s.parser.plen = 0 ∧ s.parser.idx = 0 ∧
    s.parser.pend = false ∧ s.parser.pendLen = 0
  parser_data : ∀ k, s.parser.data.read k = none
  queues : ∀ x, (s.queue x).IsReset (s.cfg.queue x)
  ports : ∀ p, (s.port p).cmd = none

/-- Two states have the same queue B and the same ports P_B and C_B, in the same configuration and fault state. -/
def AgreeOnB (s t : State) : Prop :=
  s.cfg = t.cfg ∧ s.fault = t.fault ∧ s.fcmd = t.fcmd ∧ s.queueB = t.queueB ∧ s.portPB = t.portPB ∧ s.portCB = t.portCB

/-- Two states have the same parser, queue A and ports I and C_A, in the same configuration and fault state. -/
def AgreeOnA (s t : State) : Prop :=
  s.cfg = t.cfg ∧ s.fault = t.fault ∧ s.fcmd = t.fcmd ∧ s.parser = t.parser ∧ s.queueA = t.queueA ∧
    s.portI = t.portI ∧ s.portCA = t.portCA

/-- The side of the block an event belongs to: queue A with the parser, or queue B. The block reset belongs to both. -/
def sideOf (e : Event) : Option QueueId :=
  match e with
  | .turn p _ => match p with
    | .i | .ca => some .a
    | .pb | .cb => some .b
  | .emit => some .a
  | .syncR2W x _ => some x
  | .syncW2R x _ => some x
  | .present p _ => match p with
    | .i | .ca => some .a
    | .pb | .cb => some .b
  | .reset => none

end Sys2Proof.Machine
end

