-- ==== Sys2Proof/Certificates/Slice0/Obligations.lean ====
section
/-! DEFINITION. The statements for the provers. Each docstring names the rule of spec/ it formalises. -/

open Sys2Proof Sys2Proof.Machine

/-! ## Encoding -/

/-- Decode and encode agree for every command, every operand byte (R47, R50, R51). -/
def Obligations.DecodeOfEncodeIsTheInstruction : Prop :=
  ∀ i : Instr, decode (encode i) = .ok i

/-- A word that decodes is the encoding of what it decodes to: no two words mean the same command (R54). -/
def Obligations.EncodeOfDecodedIsTheWord : Prop :=
  ∀ (w : Word) (i : Instr), decode w = .ok i → encode i = w

/-- `Legal(p, CMD)` of R52, for every word and port. -/
def Obligations.LegalWordsAreThoseOfTheTable : Prop :=
  ∀ (timed : Bool) (p : Port) (w : Word),
    legalWord timed p w = true ↔
      w.extractLsb' 8 4 = 0 ∧ (w.extractLsb' 12 4).toNat ∈ legalOpcodes timed p ∧
        ((w.extractLsb' 12 4).toNat ∈ [0x3, 0xE] ∨ w.extractLsb' 0 8 = 0)

/-- Words written out from the encoding of R47 and R50 decode to their commands (vectors EN-1 to EN-6). -/
def Obligations.OpcodeWordsDecode : Prop :=
  decode 0x1000#16 = .ok .acqw ∧ decode 0x3041#16 = .ok (.addb 0x41) ∧ decode 0x6000#16 = .ok .acqwt ∧
    decode 0x8000#16 = .ok .acqr ∧ decode 0xD000#16 = .ok .rempty ∧ decode 0xE003#16 = .ok (.pbyte 0x03)

/-- R53: every word with opcode 0x0, 0x7 or 0xF is illegal on every port, the all-zero word among them. -/
def Obligations.ReservedOpcodesAreIllegalEverywhere : Prop :=
  (∀ (timed : Bool) (p : Port) (w : Word), (w.extractLsb' 12 4).toNat ∈ [0x0, 0x7, 0xF] → legalWord timed p w = false) ∧
    ∀ (timed : Bool) (p : Port), legalWord timed p 0x0000#16 = false

/-! ## The step, faults, reset -/

/-- A step that gives a port its turn runs the decoded command in the state with the event taken and the turn noted. -/
def Obligations.StepRunsTheDecodedCommand : Prop :=
  ∀ (s : State) (p : Port) (timeout : Bool) (w : Word) (i : Instr),
    s.nextEvent = .turn p timeout → (s.port p).cmd = some w → decode w = .ok i →
      step s = exec i { s.advance with turn := { port := p, timeout := timeout } }

/-- R52: a word that fails `Legal(p, CMD)` on its port, whatever the state it meets, raises
ILLEGAL_COMMAND with FAULT.SRC the port; FCMD is the word (R24). -/
def Obligations.IllegalWordRaisesIllegalCommand : Prop :=
  ∀ (s : State) (p : Port) (timeout : Bool) (w : Word),
    s.nextEvent = .turn p timeout → (s.port p).cmd = some w → s.halted = false →
      ¬ (w.extractLsb' 8 4 = 0 ∧ (w.extractLsb' 12 4).toNat ∈ legalOpcodes s.cfg.timedAcquire p ∧
        ((w.extractLsb' 12 4).toNat ∈ [0x3, 0xE] ∨ w.extractLsb' 0 8 = 0)) →
        step s = .next { s.advance with
          turn := { port := p, timeout := timeout },
          fault := match p with
            | .i => 0x8007#16
            | .ca => 0xA007#16
            | .pb => 0xB007#16
            | .cb => 0xC007#16,
          fcmd := w }

/-- R107: fault entry writes FAULT and FCMD and nothing else, and a halted block has no step of any agent. -/
def Obligations.FaultEntryIsPreciseAndHalts : Prop :=
  (∀ (e : Event) (s t : State), s.halted = false → runEvent e s = .next t → t.halted = true →
    ∃ p timeout w c, e = .turn p timeout ∧ (s.port p).cmd = some w ∧ FaultCode.raisedOn c p = true ∧
      t = { s with turn := { port := p, timeout := timeout }, fault := faultWord p c, fcmd := w } ∧
      t.faultSrc = portNumber p ∧ t.faultCode = c.code) ∧
  (∀ (e : Event) (s : State), s.halted = true → agentOf e ≠ none →
    ∃ turn : Turn, runEvent e s = .next { s with turn := turn })

/-- R108: only the block reset leaves the halted state, and no second fault is recorded. -/
def Obligations.OnlyTheBlockResetLeavesTheHaltedState : Prop :=
  (∀ (e : Event) (s t : State), s.halted = true → e ≠ .reset → runEvent e s = .next t →
    t.halted = true ∧ t.fault = s.fault ∧ t.fcmd = s.fcmd) ∧
  (∀ s : State, ∃ t, runEvent .reset s = .next t ∧ t.halted = false)

/-- R117: the block reset gives every state element its reset value, in every configuration, and keeps the configuration. -/
def Obligations.BlockResetGivesTheResetValues : Prop :=
  (∀ s : State, ∃ t, runEvent .reset s = .next t ∧ t.IsReset ∧ t.cfg = s.cfg) ∧
    ∀ c : Config, (State.resetWith c).IsReset

/-- The machine's reset state has the values of R117. Its configuration is the model's choice (log 1). -/
def Obligations.MachineResetStateIsReset : Prop :=
  State.reset.IsReset

/-- R26, R46: a command presented on a free port waits there and changes nothing else. That a busy port refuses the event
is the model's reading of I18 (log 4). -/
def Obligations.PresentedCommandWaitsOnItsPort : Prop :=
  ∀ (s : State) (p : Port) (w : Word),
    ((s.port p).cmd = none → runEvent (.present p w) s = .next (s.setPort p { cmd := some w, rsp := none })) ∧
    ((s.port p).cmd ≠ none → runEvent (.present p w) s = .refused (.portBusy p))

/-- No step and no reset changes the configuration (R12). -/
def Obligations.ConfigurationNeverChanges : Prop :=
  ∀ (s t : State), step s = .next t → t.cfg = s.cfg

/-- The check order of R106, items 1 to 3, for every command: halted, illegal on the port, held state; and the `pend` check
of PBYTE. Each decides whatever the later ones would say. -/
def Obligations.ChecksComeInOrder : Prop :=
  (∀ (i : Instr) (s : State), s.halted = true → exec i s = .next s) ∧
  (∀ (i : Instr) (s : State), s.halted = false → legalOn s.cfg.timedAcquire s.turn.port i = false →
    exec i s = .next { s with fault := faultWord s.turn.port .illegalCommand, fcmd := encode i }) ∧
  (∀ (i : Instr) (s : State) (c : FaultCode), s.halted = false → legalOn s.cfg.timedAcquire s.turn.port i = true →
    heldViolation i (s.queue (if s.turn.port = .ca then .a else .b)) = some c →
    exec i s = .next { s with fault := faultWord s.turn.port c, fcmd := encode i }) ∧
  (∀ (b : Byte) (s : State), s.halted = false → s.turn.port = .i → s.parser.pend = true → exec (.pbyte b) s = .next s)

/-! ## The producer port -/

/-- R68 (SEMAPHORE): ACQW faults while the write slot is held, holds while `semW = 0`, else takes a slot. -/
def Obligations.AcqwAcquiresTheWriteSlot : Prop :=
  ∀ (s : State) (c : Semaphores), s.halted = false → s.turn.port = .pb → s.queueB.arbiter = .semaphore c →
    (s.queueB.wHeld = true → exec .acqw s = .next { s with fault := 0xB001#16, fcmd := 0x1000#16 }) ∧
    (s.queueB.wHeld = false → c.semW = 0 → exec .acqw s = .next s) ∧
    (s.queueB.wHeld = false → c.semW ≠ 0 →
      exec .acqw s = .next { s with
        queueB := { s.queueB with arbiter := .semaphore { c with semW := c.semW - 1 }, wHeld := true },
        portPB := { cmd := none, rsp := some 0x0000#16 } })

/-- R69 (SEMAPHORE): RELW faults if nothing is held, else hands the slot over; slots and storage are left intact. -/
def Obligations.RelwHandsTheSlotOver : Prop :=
  ∀ (s : State) (c : Semaphores), s.halted = false → s.turn.port = .pb → s.queueB.arbiter = .semaphore c →
    (s.queueB.wHeld = false → exec .relw s = .next { s with fault := 0xB002#16, fcmd := 0x2000#16 }) ∧
    (s.queueB.wHeld = true →
      exec .relw s = .next { s with
        queueB := { s.queueB with
          arbiter := .semaphore { c with wIdx := BitVec.ofNat 8 ((c.wIdx.toNat + 1) % s.cfg.b.n), semR := c.semR + 1 },
          wHeld := false },
        portPB := { cmd := none, rsp := some 0x0000#16 } })

/-- R70, R62: ADDB faults if nothing is held; a full slot answers FULL and changes nothing; else the byte is stored at the
write cursor of the held slot. The premise on the address holds in every good state. -/
def Obligations.AddbAppendsTheByte : Prop :=
  ∀ (s : State) (b : Byte), s.halted = false → s.turn.port = .pb →
    let g := s.cfg.b
    let q := s.queueB
    let j := q.writeSlot g
    let v := q.slot j
    (q.wHeld = false → exec (.addb b) s = .next { s with fault := 0xB003#16, fcmd := 0x30#8 ++ b }) ∧
    (q.wHeld = true → v.cnt.toNat = g.cap →
      exec (.addb b) s = .next { s with portPB := { cmd := none, rsp := some 0x0100#16 } }) ∧
    (q.wHeld = true → v.cnt.toNat ≠ g.cap → j * g.cap + v.wr.toNat < g.n * g.cap →
      exec (.addb b) s = .next { s with
        queueB := { q with
          slots := q.slots.set j { rd := v.rd, wr := BitVec.ofNat 16 ((v.wr.toNat + 1) % g.cap), cnt := v.cnt + 1 },
          ram := q.ram.write (j * g.cap + v.wr.toNat) b },
        portPB := { cmd := none, rsp := some (0x00#8 ++ b) } })

/-- The frame of ADDB: where it answers OK, exactly the byte at the held slot's write cursor changes; every other byte of
B's slot RAM, every byte of A's and of the payload buffer, every other slot, the arbiter and the held bits stay. -/
def Obligations.AddbStoresOnlyAtTheWriteCursor : Prop :=
  ∀ (s t : State) (b : Byte), s.halted = false → s.turn.port = .pb → s.queueB.wHeld = true →
    (s.queueB.slot (s.queueB.writeSlot s.cfg.b)).cnt.toNat ≠ s.cfg.b.cap → exec (.addb b) s = .next t →
    ∀ a, slotAddr s.cfg.b (s.queueB.writeSlot s.cfg.b) (s.queueB.slot (s.queueB.writeSlot s.cfg.b)).wr.toNat = a →
      t.queueB.ram.read a = some b ∧
      (∀ k, k ≠ a → t.queueB.ram.read k = s.queueB.ram.read k) ∧
      (∀ k, t.queueA.ram.read k = s.queueA.ram.read k) ∧ (∀ k, t.parser.data.read k = s.parser.data.read k) ∧
      (∀ j, j ≠ s.queueB.writeSlot s.cfg.b → t.queueB.slot j = s.queueB.slot j) ∧
      t.queueB.arbiter = s.queueB.arbiter ∧ t.queueB.wHeld = true ∧ t.queueB.rHeld = s.queueB.rHeld ∧
      t.queueA = s.queueA ∧ t.parser = s.parser ∧ t.fault = s.fault ∧ t.fcmd = s.fcmd

/-- R71: WFULL. -/
def Obligations.WfullTellsWhetherTheWriteSlotIsFull : Prop :=
  ∀ s : State, s.halted = false → s.turn.port = .pb →
    (s.queueB.wHeld = false → exec .wfull s = .next { s with fault := 0xB003#16, fcmd := 0x4000#16 }) ∧
    (s.queueB.wHeld = true →
      exec .wfull s = .next { s with portPB := { cmd := none, rsp := some (okWord (decide
        ((s.queueB.slot (s.queueB.writeSlot s.cfg.b)).cnt.toNat = s.cfg.b.cap))) } })

/-- R72: WEMPTY. -/
def Obligations.WemptyTellsWhetherTheWriteSlotIsEmpty : Prop :=
  ∀ s : State, s.halted = false → s.turn.port = .pb →
    (s.queueB.wHeld = false → exec .wempty s = .next { s with fault := 0xB003#16, fcmd := 0x5000#16 }) ∧
    (s.queueB.wHeld = true →
      exec .wempty s = .next { s with portPB := { cmd := none, rsp := some (okWord (decide
        ((s.queueB.slot (s.queueB.writeSlot s.cfg.b)).cnt.toNat = 0))) } })

/-- R73 (SEMAPHORE): ACQWT is illegal without TIMED_ACQUIRE; with it, it faults while held, acquires as ACQW does, and with
no slot available completes with TIMEOUT or holds, as the turn's draw says; the draw is any value. -/
def Obligations.AcqwtAcquiresOrTimesOut : Prop :=
  ∀ (s : State) (c : Semaphores), s.halted = false → s.turn.port = .pb → s.queueB.arbiter = .semaphore c →
    (s.cfg.timedAcquire = false → exec .acqwt s = .next { s with fault := 0xB007#16, fcmd := 0x6000#16 }) ∧
    (s.cfg.timedAcquire = true → s.queueB.wHeld = true →
      exec .acqwt s = .next { s with fault := 0xB001#16, fcmd := 0x6000#16 }) ∧
    (s.cfg.timedAcquire = true → s.queueB.wHeld = false → c.semW ≠ 0 →
      exec .acqwt s = .next { s with
        queueB := { s.queueB with arbiter := .semaphore { c with semW := c.semW - 1 }, wHeld := true },
        portPB := { cmd := none, rsp := some 0x0000#16 } }) ∧
    (s.cfg.timedAcquire = true → s.queueB.wHeld = false → c.semW = 0 → s.turn.timeout = true →
      exec .acqwt s = .next { s with portPB := { cmd := none, rsp := some 0x0300#16 } }) ∧
    (s.cfg.timedAcquire = true → s.queueB.wHeld = false → c.semW = 0 → s.turn.timeout = false →
      exec .acqwt s = .next s)

/-! ## The consumer ports -/

/-- R75 (SEMAPHORE): ACQR on C_A or C_B. -/
def Obligations.AcqrAcquiresTheOldestFilledSlot : Prop :=
  ∀ (s : State) (p : Port) (x : QueueId) (c : Semaphores), s.halted = false → s.turn.port = p →
    (p = .ca ∧ x = .a) ∨ (p = .cb ∧ x = .b) → (s.queue x).arbiter = .semaphore c →
    ((s.queue x).rHeld = true →
      exec .acqr s = .next { s with fault := if p = .ca then 0xA004#16 else 0xC004#16, fcmd := 0x8000#16 }) ∧
    ((s.queue x).rHeld = false → c.semR = 0 → exec .acqr s = .next s) ∧
    ((s.queue x).rHeld = false → c.semR ≠ 0 →
      exec .acqr s = .next
        ((s.setQueue x { s.queue x with arbiter := .semaphore { c with semR := c.semR - 1 }, rHeld := true }).setPort p
          { cmd := none, rsp := some 0x0000#16 }))

/-- RELR under SEMAPHORE, by 42_queue_consumer.md: the read slot's cursors and count are reset, and the slot is freed. That
the recycled slot's bytes hold no value from there on, and every other byte its own, is the model's reading of R30 beside R59
(log 14). -/
def Obligations.RelrRecyclesTheReadSlot : Prop :=
  ∀ (s : State) (p : Port) (x : QueueId) (c : Semaphores), s.halted = false → s.turn.port = p →
    (p = .ca ∧ x = .a) ∨ (p = .cb ∧ x = .b) → (s.queue x).arbiter = .semaphore c →
    let g := s.cfg.queue x
    let j := c.rIdx.toNat
    ((s.queue x).rHeld = false →
      exec .relr s = .next { s with fault := if p = .ca then 0xA005#16 else 0xC005#16, fcmd := 0x9000#16 }) ∧
    ((s.queue x).rHeld = true →
      ∃ ram, (∀ a, ram.read a = if j * g.cap ≤ a ∧ a < j * g.cap + g.cap then none else (s.queue x).ram.read a) ∧
        exec .relr s = .next
          ((s.setQueue x { s.queue x with
              slots := (s.queue x).slots.set j { rd := 0, wr := 0, cnt := 0 },
              arbiter := .semaphore { c with
                rIdx := BitVec.ofNat 8 ((c.rIdx.toNat + 1) % g.n), semW := c.semW + 1 },
              rHeld := false,
              ram := ram }).setPort p { cmd := none, rsp := some 0x0000#16 }))

/-- R77, R63: REMB removes and returns the oldest byte of the held read slot, or answers EMPTY. The premise that the byte
has a value holds in every good state (R30). -/
def Obligations.RembRemovesTheOldestByte : Prop :=
  ∀ (s : State) (p : Port) (x : QueueId), s.halted = false → s.turn.port = p →
    (p = .ca ∧ x = .a) ∨ (p = .cb ∧ x = .b) →
    let g := s.cfg.queue x
    let q := s.queue x
    let j := q.readSlot g
    let v := q.slot j
    (q.rHeld = false →
      exec .remb s = .next { s with fault := if p = .ca then 0xA006#16 else 0xC006#16, fcmd := 0xA000#16 }) ∧
    (q.rHeld = true → v.cnt.toNat = 0 → exec .remb s = .next (s.setPort p { cmd := none, rsp := some 0x0200#16 })) ∧
    (q.rHeld = true → v.cnt.toNat ≠ 0 → j * g.cap + v.rd.toNat < g.n * g.cap →
      ∀ b, q.ram.read (j * g.cap + v.rd.toNat) = some b →
        exec .remb s = .next
          ((s.setQueue x { q with
              slots := q.slots.set j
                { rd := BitVec.ofNat 16 ((v.rd.toNat + 1) % g.cap), wr := v.wr, cnt := v.cnt - 1 } }).setPort p
            { cmd := none, rsp := some (0x00#8 ++ b) }))

/-- R78, R64: PEEK returns the oldest byte of the held read slot and changes nothing but the port. -/
def Obligations.PeekReturnsTheOldestByte : Prop :=
  ∀ (s : State) (p : Port) (x : QueueId), s.halted = false → s.turn.port = p →
    (p = .ca ∧ x = .a) ∨ (p = .cb ∧ x = .b) →
    let g := s.cfg.queue x
    let q := s.queue x
    let j := q.readSlot g
    let v := q.slot j
    (q.rHeld = false →
      exec .peek s = .next { s with fault := if p = .ca then 0xA006#16 else 0xC006#16, fcmd := 0xB000#16 }) ∧
    (q.rHeld = true → v.cnt.toNat = 0 → exec .peek s = .next (s.setPort p { cmd := none, rsp := some 0x0200#16 })) ∧
    (q.rHeld = true → v.cnt.toNat ≠ 0 → j * g.cap + v.rd.toNat < g.n * g.cap →
      ∀ b, q.ram.read (j * g.cap + v.rd.toNat) = some b →
        exec .peek s = .next (s.setPort p { cmd := none, rsp := some (0x00#8 ++ b) }))

/-- R79: RFULL. -/
def Obligations.RfullTellsWhetherTheReadSlotIsFull : Prop :=
  ∀ (s : State) (p : Port) (x : QueueId), s.halted = false → s.turn.port = p →
    (p = .ca ∧ x = .a) ∨ (p = .cb ∧ x = .b) →
    ((s.queue x).rHeld = false →
      exec .rfull s = .next { s with fault := if p = .ca then 0xA006#16 else 0xC006#16, fcmd := 0xC000#16 }) ∧
    ((s.queue x).rHeld = true →
      exec .rfull s = .next (s.setPort p { cmd := none, rsp := some (okWord (decide
        (((s.queue x).slot ((s.queue x).readSlot (s.cfg.queue x))).cnt.toNat = (s.cfg.queue x).cap))) }))

/-- R80: REMPTY. -/
def Obligations.RemptyTellsWhetherTheReadSlotIsEmpty : Prop :=
  ∀ (s : State) (p : Port) (x : QueueId), s.halted = false → s.turn.port = p →
    (p = .ca ∧ x = .a) ∨ (p = .cb ∧ x = .b) →
    ((s.queue x).rHeld = false →
      exec .rempty s = .next { s with fault := if p = .ca then 0xA006#16 else 0xC006#16, fcmd := 0xD000#16 }) ∧
    ((s.queue x).rHeld = true →
      exec .rempty s = .next (s.setPort p { cmd := none, rsp := some (okWord (decide
        (((s.queue x).slot ((s.queue x).readSlot (s.cfg.queue x))).cnt.toNat = 0))) }))

/-! ## GRAY_CDC -/

/-- R84 (with R73 for the draw of ACQWT) for ACQW, ACQWT and ACQR: the conditions `Fw = N` and
`Fr = 0` of R82 (integers mod 2N) decide, no pointer moves. -/
def Obligations.AcquiresUnderGrayCdcCheckTheViews : Prop :=
  (∀ (s : State) (g : GrayPointers), s.halted = false → s.turn.port = .pb → s.queueB.arbiter = .grayCdc g →
    s.queueB.wHeld = false →
    let fw : Int := ((g.wPtr.toNat : Int) - (g.rPtrSyncW.toNat : Int)) % (2 * (s.cfg.b.n : Int))
    (fw = s.cfg.b.n → exec .acqw s = .next s) ∧
    (fw < s.cfg.b.n → exec .acqw s = .next { s with
      queueB := { s.queueB with wHeld := true }, portPB := { cmd := none, rsp := some 0x0000#16 } }) ∧
    (s.cfg.timedAcquire = true → fw < s.cfg.b.n → exec .acqwt s = .next { s with
      queueB := { s.queueB with wHeld := true }, portPB := { cmd := none, rsp := some 0x0000#16 } }) ∧
    (s.cfg.timedAcquire = true → fw = s.cfg.b.n → s.turn.timeout = true →
      exec .acqwt s = .next { s with portPB := { cmd := none, rsp := some 0x0300#16 } }) ∧
    (s.cfg.timedAcquire = true → fw = s.cfg.b.n → s.turn.timeout = false → exec .acqwt s = .next s)) ∧
  (∀ (s : State) (p : Port) (x : QueueId) (g : GrayPointers), s.halted = false → s.turn.port = p →
    (p = .ca ∧ x = .a) ∨ (p = .cb ∧ x = .b) → (s.queue x).arbiter = .grayCdc g → (s.queue x).rHeld = false →
    let fr : Int := ((g.wPtrSyncR.toNat : Int) - (g.rPtr.toNat : Int)) % (2 * ((s.cfg.queue x).n : Int))
    (fr = 0 → exec .acqr s = .next s) ∧
    (fr ≠ 0 → exec .acqr s = .next
      ((s.setQueue x { s.queue x with rHeld := true }).setPort p { cmd := none, rsp := some 0x0000#16 })))

/-- RELW and RELR under GRAY_CDC, by 43_gray_cdc_arbiter.md: the releases advance the pointers mod 2N, RELR first resets the
slot `rPtr mod N`, and the held checks, the held bits and the responses are as under SEMAPHORE. That the recycled slot's bytes
hold no value from there on is the model's reading of R30 beside R59 (log 14). -/
def Obligations.ReleasesUnderGrayCdcAdvanceThePointers : Prop :=
  (∀ (s : State) (g : GrayPointers), s.halted = false → s.turn.port = .pb → s.queueB.arbiter = .grayCdc g →
    (s.queueB.wHeld = false → exec .relw s = .next { s with fault := 0xB002#16, fcmd := 0x2000#16 }) ∧
    (s.queueB.wHeld = true → exec .relw s = .next { s with
      queueB := { s.queueB with
        arbiter := .grayCdc { g with wPtr := BitVec.ofNat 9 ((g.wPtr.toNat + 1) % (2 * s.cfg.b.n)) }, wHeld := false },
      portPB := { cmd := none, rsp := some 0x0000#16 } })) ∧
  (∀ (s : State) (p : Port) (x : QueueId) (g : GrayPointers), s.halted = false → s.turn.port = p →
    (p = .ca ∧ x = .a) ∨ (p = .cb ∧ x = .b) → (s.queue x).arbiter = .grayCdc g →
    let par := s.cfg.queue x
    let j := g.rPtr.toNat % par.n
    ((s.queue x).rHeld = false →
      exec .relr s = .next { s with fault := if p = .ca then 0xA005#16 else 0xC005#16, fcmd := 0x9000#16 }) ∧
    ((s.queue x).rHeld = true →
      ∃ ram, (∀ a, ram.read a = if j * par.cap ≤ a ∧ a < j * par.cap + par.cap then none else (s.queue x).ram.read a) ∧
        exec .relr s = .next
          ((s.setQueue x { s.queue x with
              slots := (s.queue x).slots.set j { rd := 0, wr := 0, cnt := 0 },
              arbiter := .grayCdc { g with rPtr := BitVec.ofNat 9 ((g.rPtr.toNat + 1) % (2 * par.n)) },
              rHeld := false,
              ram := ram }).setPort p { cmd := none, rsp := some 0x0000#16 })))

/-- R86: each SYNC step moves its copy forward by a draw `d` from 1 to the distance, mod 2N, and nothing else; with no such
`d` there is no step. -/
def Obligations.SyncMovesACopyForward : Prop :=
  ∀ (s : State) (x : QueueId) (g : GrayPointers) (d : Nat), s.halted = false → (s.queue x).arbiter = .grayCdc g →
    let m : Int := 2 * ((s.cfg.queue x).n : Int)
    let r2w : Int := ((g.rPtr.toNat : Int) - (g.rPtrSyncW.toNat : Int)) % m
    let w2r : Int := ((g.wPtr.toNat : Int) - (g.wPtrSyncR.toNat : Int)) % m
    (1 ≤ d ∧ (d : Int) ≤ r2w → runEvent (.syncR2W x d) s = .next (s.setQueue x { s.queue x with
      arbiter := .grayCdc { g with
        rPtrSyncW := BitVec.ofNat 9 ((g.rPtrSyncW.toNat + d) % (2 * (s.cfg.queue x).n)) } })) ∧
    (¬ (1 ≤ d ∧ (d : Int) ≤ r2w) → runEvent (.syncR2W x d) s = .next s) ∧
    (1 ≤ d ∧ (d : Int) ≤ w2r → runEvent (.syncW2R x d) s = .next (s.setQueue x { s.queue x with
      arbiter := .grayCdc { g with
        wPtrSyncR := BitVec.ofNat 9 ((g.wPtrSyncR.toNat + d) % (2 * (s.cfg.queue x).n)) } })) ∧
    (¬ (1 ≤ d ∧ (d : Int) ≤ w2r) → runEvent (.syncW2R x d) s = .next s)

/-- R82, R87 (a), (c), R89: in a good state of a GRAY_CDC instance `Fr ≤ F ≤ Fw ≤ N`, the views `semW_v` and `semR_v` lie
between 0 and the counters of the SEMAPHORE instance with the same history, and with nothing held an acquire is available
exactly where its view is positive; at reset the views are N and 0. -/
def Obligations.ViewsNeverExceedTheCounters : Prop :=
  (∀ (s : State) (x : QueueId) (p : GrayPointers), s.Inv → (s.queue x).arbiter = .grayCdc p →
    let g := s.cfg.queue x
    let q := s.queue x
    p.filledSeenByConsumer g ≤ q.filled g ∧ q.filled g ≤ p.filledSeenByProducer g ∧ p.filledSeenByProducer g ≤ g.n ∧
    (∃ c, (q.toSemaphore g).arbiter = .semaphore c ∧
      0 ≤ p.semWView g q.wHeld ∧ p.semWView g q.wHeld ≤ (c.semW.toNat : Int) ∧
      0 ≤ p.semRView g q.rHeld ∧ p.semRView g q.rHeld ≤ (c.semR.toNat : Int)) ∧
    (q.wHeld = false → (q.canAcquireWrite g = true ↔ 0 < p.semWView g q.wHeld)) ∧
    (q.rHeld = false → (q.canAcquireRead g = true ↔ 0 < p.semRView g q.rHeld))) ∧
  (∀ (c : Config) (x : QueueId) (p : GrayPointers), ((State.resetWith c).queue x).arbiter = .grayCdc p →
    p.semWView (c.queue x) ((State.resetWith c).queue x).wHeld = (c.queue x).n ∧
      p.semRView (c.queue x) ((State.resetWith c).queue x).rHeld = 0)

/-- R129 for RELW on P_B: under SEMAPHORE it makes an ACQR on C_B complete at its next turn; under GRAY_CDC an ACQR that had
seen nothing more still holds after the RELW, and completes once SyncW2R has run. -/
def Obligations.RelwBecomesVisibleToAcqr : Prop :=
  (∀ (s : State) (c : Semaphores), s.Inv → s.halted = false → s.turn.port = .pb → s.queueB.arbiter = .semaphore c →
    s.queueB.wHeld = true → s.queueB.rHeld = false →
    ∃ t u, exec .relw s = .next t ∧ exec .acqr { t with turn := { port := .cb, timeout := false } } = .next u ∧
      u.queueB.rHeld = true ∧ u.portCB.rsp = some 0x0000#16) ∧
  (∀ (s : State) (g : GrayPointers), s.Inv → s.halted = false → s.turn.port = .pb → s.queueB.arbiter = .grayCdc g →
    s.queueB.wHeld = true → s.queueB.rHeld = false → g.wPtrSyncR = g.rPtr →
    ∃ t u v d, exec .relw s = .next t ∧
      (let t' := { t with turn := { port := .cb, timeout := false } }
       exec .acqr t' = .next t' ∧ runEvent (.syncW2R .b d) t' = .next u ∧ exec .acqr u = .next v ∧
         v.queueB.rHeld = true ∧ v.portCB.rsp = some 0x0000#16))

/-- R129 for RELR on C_B: under SEMAPHORE it makes an ACQW on P_B complete at its next turn; under GRAY_CDC an ACQW that sees
`Fw = N` still holds after the RELR, and completes once SyncR2W has run. -/
def Obligations.RelrBecomesVisibleToAcqw : Prop :=
  (∀ (s : State) (c : Semaphores), s.Inv → s.halted = false → s.turn.port = .cb → s.queueB.arbiter = .semaphore c →
    s.queueB.rHeld = true → s.queueB.wHeld = false →
    ∃ t u, exec .relr s = .next t ∧ exec .acqw { t with turn := { port := .pb, timeout := false } } = .next u ∧
      u.queueB.wHeld = true ∧ u.portPB.rsp = some 0x0000#16) ∧
  (∀ (s : State) (g : GrayPointers), s.Inv → s.halted = false → s.turn.port = .cb → s.queueB.arbiter = .grayCdc g →
    s.queueB.rHeld = true → s.queueB.wHeld = false →
    ((g.wPtr.toNat : Int) - (g.rPtrSyncW.toNat : Int)) % (2 * (s.cfg.b.n : Int)) = s.cfg.b.n →
    ∃ t u v d, exec .relr s = .next t ∧
      (let t' := { t with turn := { port := .pb, timeout := false } }
       exec .acqw t' = .next t' ∧ runEvent (.syncR2W .b d) t' = .next u ∧ exec .acqw u = .next v ∧
         v.queueB.wHeld = true ∧ v.portPB.rsp = some 0x0000#16))

/-- R129 on queue A, where EMIT acquires and releases for the producer. Under SEMAPHORE an EMIT makes an ACQR on C_A complete
at its next turn, and a RELR on C_A lets a pending frame leave; under GRAY_CDC the other side still holds after either, and
goes on once its copy has been synchronised. -/
def Obligations.ReleasesOnQueueABecomeVisible : Prop :=
  (∀ (s : State) (c : Semaphores), s.Inv → s.halted = false → s.queueA.arbiter = .semaphore c → s.parser.pend = true →
    (c.semW ≠ 0 → s.queueA.rHeld = false →
      ∃ t u, runEvent .emit s = .next t ∧ exec .acqr { t with turn := { port := .ca, timeout := false } } = .next u ∧
        u.queueA.rHeld = true ∧ u.portCA.rsp = some 0x0000#16) ∧
    (s.turn.port = .ca → s.queueA.rHeld = true →
      ∃ t u, exec .relr s = .next t ∧ runEvent .emit t = .next u ∧ u.parser.pend = false)) ∧
  (∀ (s : State) (g : GrayPointers), s.Inv → s.halted = false → s.queueA.arbiter = .grayCdc g → s.parser.pend = true →
    let fw : Int := ((g.wPtr.toNat : Int) - (g.rPtrSyncW.toNat : Int)) % (2 * (s.cfg.a.n : Int))
    (fw < s.cfg.a.n → s.queueA.rHeld = false → g.wPtrSyncR = g.rPtr →
      ∃ t u v d, runEvent .emit s = .next t ∧
        (let t' := { t with turn := { port := .ca, timeout := false } }
         exec .acqr t' = .next t' ∧ runEvent (.syncW2R .a d) t' = .next u ∧ exec .acqr u = .next v ∧
           v.queueA.rHeld = true ∧ v.portCA.rsp = some 0x0000#16)) ∧
    (fw = s.cfg.a.n → s.turn.port = .ca → s.queueA.rHeld = true →
      ∃ t u v d, exec .relr s = .next t ∧ runEvent .emit t = .next t ∧ runEvent (.syncR2W .a d) t = .next u ∧
        runEvent .emit u = .next v ∧ v.parser.pend = false))

/-- R86, R44: under weak fairness a synchronised copy reaches the pointer it copies, if the pointer stops moving. -/
def Obligations.SyncCatchesUpUnderWeakFairness : Prop :=
  ∀ (events : Nat → Event) (states : Nat → State) (x : QueueId) (n : Nat) (v : Count),
    IsRun events states → WeaklyFair events states →
    (∀ m, n ≤ m → (states m).Inv ∧ (states m).halted = false) →
    ((∀ m, n ≤ m → ∃ g, ((states m).queue x).arbiter = .grayCdc g ∧ g.rPtr = v) →
      ∃ m g, n ≤ m ∧ ((states m).queue x).arbiter = .grayCdc g ∧ g.rPtrSyncW = v) ∧
    ((∀ m, n ≤ m → ∃ g, ((states m).queue x).arbiter = .grayCdc g ∧ g.wPtr = v) →
      ∃ m g, n ≤ m ∧ ((states m).queue x).arbiter = .grayCdc g ∧ g.wPtrSyncR = v)

/-- R87 (c), (d): every step of a GRAY_CDC block but a TIMEOUT completion of ACQWT is, seen through the counters
`toSemaphore` gives it (R82 with the true F), the same step of the SEMAPHORE block with the same history, or no step of it. So every acquire that completes, by ACQWT
too, is enabled there, with the same response. A TIMEOUT is left out: the SEMAPHORE block may have a slot at that point. -/
def Obligations.GrayCdcRefinesSemaphore : Prop :=
  ∀ (e : Event) (s t : State), s.Inv → runEvent e s = .next t →
    ¬ (s.portPB.rsp = none ∧ t.portPB.rsp = some 0x0300#16) →
    t.toSemaphore = { s.toSemaphore with turn := t.turn } ∨ runEvent e s.toSemaphore = .next t.toSemaphore

/-! ## The FrameParser -/

/-- R92: an input byte in AwaitPreamble1. -/
def Obligations.PbyteInAwaitPreamble1 : Prop :=
  ∀ (s : State) (b : Byte), s.halted = false → s.turn.port = .i → s.parser.pend = false →
    s.parser.st = .awaitPreamble1 →
    (b = 0x03 → exec (.pbyte b) s = .next { s with
      parser := { s.parser with csum := 0x03, st := .awaitPreamble2 }, portI := { cmd := none, rsp := some 0x0000#16 } }) ∧
    (b ≠ 0x03 → exec (.pbyte b) s = .next { s with
      parser := { s.parser with pend := true, pendLen := BitVec.ofInt 16 (-1), st := .errorRecovery },
      portI := { cmd := none, rsp := some 0x0000#16 } })

/-- R93 and R94: an input byte in AwaitPreamble2 and AwaitPreamble3. -/
def Obligations.PbyteInAwaitPreamble2And3 : Prop :=
  ∀ (s : State) (b : Byte), s.halted = false → s.turn.port = .i → s.parser.pend = false →
    (s.parser.st = .awaitPreamble2 →
      (b = 0xAF → exec (.pbyte b) s = .next { s with
        parser := { s.parser with csum := s.parser.csum ^^^ b, st := .awaitPreamble3 },
        portI := { cmd := none, rsp := some 0x0000#16 } }) ∧
      (b ≠ 0xAF → exec (.pbyte b) s = .next { s with
        parser := { s.parser with pend := true, pendLen := BitVec.ofInt 16 (-2), st := .errorRecovery },
        portI := { cmd := none, rsp := some 0x0000#16 } })) ∧
    (s.parser.st = .awaitPreamble3 →
      (b = 0xEF → exec (.pbyte b) s = .next { s with
        parser := { s.parser with csum := s.parser.csum ^^^ b, st := .awaitCommand },
        portI := { cmd := none, rsp := some 0x0000#16 } }) ∧
      (b ≠ 0xEF → exec (.pbyte b) s = .next { s with
        parser := { s.parser with pend := true, pendLen := BitVec.ofInt 16 (-3), st := .errorRecovery },
        portI := { cmd := none, rsp := some 0x0000#16 } }))

/-- R95: any byte is accepted in AwaitCommand and enters the checksum. -/
def Obligations.PbyteInAwaitCommand : Prop :=
  ∀ (s : State) (b : Byte), s.halted = false → s.turn.port = .i → s.parser.pend = false →
    s.parser.st = .awaitCommand →
    exec (.pbyte b) s = .next { s with
      parser := { s.parser with csum := s.parser.csum ^^^ b, st := .awaitLength },
      portI := { cmd := none, rsp := some 0x0000#16 } }

/-- The length byte, by 44_frame_parser.md, with the test over integers. That no byte of the payload buffer holds a value as an
attempt begins to collect is the model's reading of R30 and I8 (log 14). -/
def Obligations.PbyteInAwaitLength : Prop :=
  ∀ (s : State) (b : Byte), s.halted = false → s.turn.port = .i → s.parser.pend = false →
    s.parser.st = .awaitLength →
    (1 ≤ (b.toNat : Int) - 5 → exec (.pbyte b) s = .next { s with
      parser := { s.parser with csum := s.parser.csum ^^^ b, plen := b, idx := 0, st := .collectPayload, data := [] },
      portI := { cmd := none, rsp := some 0x0000#16 } }) ∧
    (¬ 1 ≤ (b.toNat : Int) - 5 → exec (.pbyte b) s = .next { s with
      parser := { s.parser with pend := true, pendLen := BitVec.ofInt 16 (-4), st := .errorRecovery },
      portI := { cmd := none, rsp := some 0x0000#16 } })

/-- R97: a payload byte is stored at `idx`, and nowhere else; the byte at which the index reaches `plen − 5` emits a success
frame or ChecksumMismatch and returns to AwaitPreamble1. -/
def Obligations.PbyteInCollectPayload : Prop :=
  ∀ (s : State) (b : Byte), s.halted = false → s.turn.port = .i → s.parser.pend = false →
    s.parser.st = .collectPayload → s.parser.idx.toNat < 250 →
    let p := s.parser
    let c := p.csum ^^^ b
    let n := p.idx.toNat + 1
    let stored := { p with data := p.data.write p.idx.toNat b, idx := BitVec.ofNat 8 n, csum := c }
    ((n : Int) ≠ (p.plen.toNat : Int) - 5 → exec (.pbyte b) s = .next { s with
      parser := stored, portI := { cmd := none, rsp := some 0x0000#16 } }) ∧
    ((n : Int) = (p.plen.toNat : Int) - 5 → c = 0 → exec (.pbyte b) s = .next { s with
      parser := { stored with pend := true, pendLen := 0x00#8 ++ p.plen, st := .awaitPreamble1 },
      portI := { cmd := none, rsp := some 0x0000#16 } }) ∧
    ((n : Int) = (p.plen.toNat : Int) - 5 → c ≠ 0 → exec (.pbyte b) s = .next { s with
      parser := { stored with pend := true, pendLen := BitVec.ofInt 16 (-5), st := .awaitPreamble1 },
      portI := { cmd := none, rsp := some 0x0000#16 } }) ∧
    stored.data.read p.idx.toNat = some b ∧ ∀ k, k ≠ p.idx.toNat → stored.data.read k = p.data.read k

/-- R98: an input byte in ErrorRecovery. -/
def Obligations.PbyteInErrorRecovery : Prop :=
  ∀ (s : State) (b : Byte), s.halted = false → s.turn.port = .i → s.parser.pend = false →
    s.parser.st = .errorRecovery →
    (b = 0x03 → exec (.pbyte b) s = .next { s with
      parser := { s.parser with csum := 0x03, st := .awaitPreamble2 }, portI := { cmd := none, rsp := some 0x0000#16 } }) ∧
    (b ≠ 0x03 → exec (.pbyte b) s = .next { s with portI := { cmd := none, rsp := some 0x0000#16 } })

/-- R104: in a good state no byte makes the parser fault or stop. PBYTE holds while a frame is pending, and else completes
with (OK, 0x00), whatever the byte; FAULT stays. -/
def Obligations.FramingErrorsNeverStopTheParser : Prop :=
  ∀ (s : State) (b : Byte), s.Inv → s.halted = false → s.turn.port = .i →
    (s.parser.pend = true → exec (.pbyte b) s = .next s) ∧
    (s.parser.pend = false → ∃ t, exec (.pbyte b) s = .next t ∧ t.portI = { cmd := none, rsp := some 0x0000#16 } ∧
      t.fault = s.fault ∧ t.halted = false)

/-- R102, for one byte: which bytes end in an emission. -/
def Obligations.WhichBytesEmit : Prop :=
  ∀ (s t : State) (b : Byte), s.halted = false → s.turn.port = .i → s.parser.pend = false →
    exec (.pbyte b) s = .next t →
    (t.parser.pend = true ↔
      (s.parser.st = .awaitPreamble1 ∧ b ≠ 0x03) ∨ (s.parser.st = .awaitPreamble2 ∧ b ≠ 0xAF) ∨
      (s.parser.st = .awaitPreamble3 ∧ b ≠ 0xEF) ∨ (s.parser.st = .awaitLength ∧ b.toNat ≤ 5) ∨
      (s.parser.st = .collectPayload ∧ s.parser.idx.toNat + 1 + 5 = s.parser.plen.toNat))

/-- R99, the checksum law: a whole frame attempt fed byte by byte from P1 or ER leaves `csum` the XOR of its L bytes, emits
a success frame if and only if that XOR is 0, else ChecksumMismatch, and has collected the payload. -/
def Obligations.ChecksumLaw : Prop :=
  ∀ (s : State) (command length : Byte) (payload : List Byte), s.halted = false → s.turn.port = .i →
    s.parser.pend = false → s.parser.st = .awaitPreamble1 ∨ s.parser.st = .errorRecovery →
    6 ≤ length.toNat → payload.length = length.toNat - 5 →
    let attempt := [0x03, 0xAF, 0xEF, command, length] ++ payload
    let sum := attempt.foldl (fun x y => x ^^^ y) (0 : Byte)
    ∃ t, feedBytes attempt s = some t ∧ t.parser.csum = sum ∧ t.parser.st = .awaitPreamble1 ∧ t.parser.pend = true ∧
      (sum = 0 → t.parser.pendLen = 0x00#8 ++ length) ∧ (sum ≠ 0 → t.parser.pendLen = BitVec.ofInt 16 (-5)) ∧
      ∀ k, (hk : k < payload.length) → t.parser.data.read k = some payload[k]

/-- The table of R101: the record of a success frame and of each error. -/
def Obligations.RecordBytes : Prop :=
  ∀ data : Memory,
    (∀ (length : Byte) (payload : List Byte), 6 ≤ length.toNat → payload.length = length.toNat - 5 →
      (∀ k, (hk : k < payload.length) → data.read k = some payload[k]) →
      record (0x00#8 ++ length) data = .ok (0x00 :: length :: payload)) ∧
    record (BitVec.ofInt 16 (-1)) data = .ok [0xFF, 0xFF] ∧ record (BitVec.ofInt 16 (-2)) data = .ok [0xFF, 0xFE] ∧
    record (BitVec.ofInt 16 (-3)) data = .ok [0xFF, 0xFD] ∧ record (BitVec.ofInt 16 (-4)) data = .ok [0xFF, 0xFC] ∧
    record (BitVec.ofInt 16 (-5)) data = .ok [0xFF, 0xFB]

/-- R100, both arbiters, in a good state: with the block halted or no frame pending EMIT has no step; with one pending it
holds if A cannot be acquired, else it writes the record
into the write slot of A, hands the slot over and clears `pend`. Every other slot, every byte outside the record and the
rest of the state stay. -/
def Obligations.EmitMovesThePendingFrame : Prop :=
  ∀ s : State, s.Inv →
    let g := s.cfg.a
    let j := s.queueA.writeSlot g
    let acquirable : Prop := match s.queueA.arbiter with
      | .semaphore c => c.semW ≠ 0
      | .grayCdc p => ((p.wPtr.toNat : Int) - (p.rPtrSyncW.toNat : Int)) % (2 * (g.n : Int)) < g.n
    (s.halted = true ∨ s.parser.pend = false ∨ ¬ acquirable → runEvent .emit s = .next s) ∧
    (s.halted = false → s.parser.pend = true → acquirable →
      ∃ bytes t, record s.parser.pendLen s.parser.data = .ok bytes ∧ runEvent .emit s = .next t ∧
      t = { s with queueA := t.queueA, parser := { s.parser with pend := false } } ∧
      t.queueA.arbiter = (match s.queueA.arbiter with
        | .semaphore c => .semaphore { c with
            wIdx := BitVec.ofNat 8 ((c.wIdx.toNat + 1) % g.n), semR := c.semR + 1, semW := c.semW - 1 }
        | .grayCdc p => .grayCdc { p with wPtr := BitVec.ofNat 9 ((p.wPtr.toNat + 1) % (2 * g.n)) }) ∧
      t.queueA.wHeld = false ∧ t.queueA.rHeld = s.queueA.rHeld ∧ t.queueA.slots.length = s.queueA.slots.length ∧
      t.queueA.slotBytes g j = bytes.map some ∧
      (∀ k, k ≠ j → t.queueA.slot k = s.queueA.slot k) ∧
      (∀ a, ¬ (j * g.cap ≤ a ∧ a < j * g.cap + bytes.length) → t.queueA.ram.read a = s.queueA.ram.read a))

/-! ## Invariants and whole-block properties -/

/-- The reset state of every configuration is a good state. -/
def Obligations.ResetStateIsGood : Prop :=
  (∀ c : Config, (State.resetWith c).Inv) ∧ State.reset.Inv

/-- Every step keeps the invariant: R14, R16, R17, R19, the ranges of R20, R22, R87 (a), R105, R48. -/
def Obligations.EveryStepKeepsTheInvariant : Prop :=
  ∀ s t : State, s.Inv → step s = .next t → t.Inv

/-- R30: in a good state no step reads a byte without a value or leaves a storage array. -/
def Obligations.NoStepReadsAnUnwrittenByte : Prop :=
  ∀ (s : State) (f : Fault), s.Inv → step s ≠ .fault f

/-- R18: the producer and the consumer never hold the same slot, under either arbiter. -/
def Obligations.ProducerAndConsumerNeverShareASlot : Prop :=
  ∀ (s : State) (x : QueueId), s.Inv → (s.queue x).wHeld = true → (s.queue x).rHeld = true →
    (s.queue x).writeSlot (s.cfg.queue x) ≠ (s.queue x).readSlot (s.cfg.queue x)

/-- R81, the backpressure bound: in any run without a block reset, the slots filled or held at the start and the acquires
completed are together at most N more than the RELRs completed; and where all N slots are filled, ACQW holds. -/
def Obligations.BackpressureBound : Prop :=
  (∀ (s : State) (x : QueueId) (es : List Event), s.Inv → (∀ e ∈ es, e ≠ .reset) →
    (s.queue x).filled (s.cfg.queue x) + (s.queue x).wHeld.toNat + countEvents (acquireCompletes x) es s ≤
      (s.cfg.queue x).n + countEvents (releaseCompletes x) es s) ∧
  (∀ s : State, s.Inv → s.halted = false → s.turn.port = .pb → s.queueB.wHeld = false →
    s.queueB.filled s.cfg.b = s.cfg.b.n → exec .acqw s = .next s)

/-- R39, R40: queue B is a FIFO of slots and each slot a FIFO of bytes. RELW appends the write slot's bytes as the last
filled slot; ADDB appends to the write slot and leaves the filled slots; RELR drops the first filled slot; REMB takes the
first byte of the first filled slot; ACQW and ACQR move nothing. -/
def Obligations.QueueBIsAFifoOfSlots : Prop :=
  ∀ s t : State, s.Inv → s.halted = false →
    let g := s.cfg.b
    let q := s.queueB
    let q' := t.queueB
    (s.turn.port = .pb → q.wHeld = true → exec .relw s = .next t →
      q'.contents g = q.contents g ++ [q.slotBytes g (q.writeSlot g)]) ∧
    (∀ b, s.turn.port = .pb → q.wHeld = true → exec (.addb b) s = .next t →
      q'.contents g = q.contents g ∧
      ((q.slot (q.writeSlot g)).cnt.toNat < g.cap →
        q'.slotBytes g (q'.writeSlot g) = q.slotBytes g (q.writeSlot g) ++ [some b])) ∧
    (s.turn.port = .cb → q.rHeld = true → exec .relr s = .next t →
      ∃ first, q.contents g = first :: q'.contents g) ∧
    (s.turn.port = .cb → q.rHeld = true → exec .remb s = .next t →
      (∃ rest, q.contents g = [] :: rest ∧ q'.contents g = q.contents g ∧ t.portCB.rsp = some 0x0200#16) ∨
      (∃ b bytes rest, q.contents g = (some b :: bytes) :: rest ∧ q'.contents g = bytes :: rest ∧
        t.portCB.rsp = some (0x00#8 ++ b))) ∧
    (s.turn.port = .pb → q.wHeld = false → exec .acqw s = .next t → q'.contents g = q.contents g) ∧
    (s.turn.port = .cb → q.rHeld = false → exec .acqr s = .next t → q'.contents g = q.contents g)

/-- R39, R40 for queue A: a FIFO of records. EMIT, unless it holds, appends the pending frame's record as the last filled slot;
RELR on C_A drops the first filled slot; REMB takes the first byte of the first filled slot; ACQR and PBYTE move nothing. -/
def Obligations.QueueAIsAFifoOfRecords : Prop :=
  ∀ s t : State, s.Inv → s.halted = false →
    let g := s.cfg.a
    let q := s.queueA
    let q' := t.queueA
    (s.parser.pend = true → runEvent .emit s = .next t →
      (t.parser.pend = true ∧ q' = q) ∨
      (t.parser.pend = false ∧ ∃ bytes, record s.parser.pendLen s.parser.data = .ok bytes ∧
        q'.contents g = q.contents g ++ [bytes.map some])) ∧
    (∀ b, s.turn.port = .i → exec (.pbyte b) s = .next t → q' = q) ∧
    (s.turn.port = .ca → q.rHeld = true → exec .relr s = .next t →
      ∃ first, q.contents g = first :: q'.contents g) ∧
    (s.turn.port = .ca → q.rHeld = true → exec .remb s = .next t →
      (∃ rest, q.contents g = [] :: rest ∧ q'.contents g = q.contents g ∧ t.portCA.rsp = some 0x0200#16) ∨
      (∃ b bytes rest, q.contents g = (some b :: bytes) :: rest ∧ q'.contents g = bytes :: rest ∧
        t.portCA.rsp = some (0x00#8 ++ b))) ∧
    (s.turn.port = .ca → q.rHeld = false → exec .acqr s = .next t → q'.contents g = q.contents g)

/-- R65: CB_WriteBlock appends the first `min(n, CAP − cnt)` bytes and answers FULL for the rest; nothing outside the slot
changes. -/
def Obligations.WriteBlockAppendsWhatFits : Prop :=
  ∀ (g : QueueParams) (q : Queue) (j : Nat) (bytes : List Byte), 1 ≤ g.cap → g.cap ≤ 65535 → j < g.n →
    j < q.slots.length → (q.slot j).Wf g.cap →
    let m := min bytes.length (g.cap - (q.slot j).cnt.toNat)
    ∃ q', cbWriteBlock g j bytes q =
        .ok (List.replicate m Status.ok ++ List.replicate (bytes.length - m) Status.full, q') ∧
      q'.slotBytes g j = q.slotBytes g j ++ (bytes.take m).map some ∧
      (∀ k, k ≠ j → q'.slot k = q.slot k) ∧
      (∀ a, ¬ (j * g.cap ≤ a ∧ a < (j + 1) * g.cap) → q'.ram.read a = q.ram.read a) ∧
      q'.arbiter = q.arbiter ∧ q'.wHeld = q.wHeld ∧ q'.rHeld = q.rHeld

/-- R66: CB_ReadBlock returns the oldest `min(n, cnt)` bytes in order; writing N ≤ CAP bytes into an empty slot and reading
N bytes returns exactly the written sequence. -/
def Obligations.ReadBlockReturnsWhatWasWritten : Prop :=
  ∀ (g : QueueParams) (q : Queue) (j : Nat), 1 ≤ g.cap → g.cap ≤ 65535 → j < g.n → j < q.slots.length →
    (q.slot j).Wf g.cap →
    ((∀ i < (q.slot j).cnt.toNat, (q.ram.read (q.byteAddr g j i)).isSome = true) →
      ∀ n, ∃ bytes q', cbReadBlock g j n q = .ok (bytes, q') ∧ bytes.length = min n (q.slot j).cnt.toNat ∧
        bytes.map some = (q.slotBytes g j).take n ∧ q'.slotBytes g j = (q.slotBytes g j).drop n) ∧
    ((q.slot j).cnt = 0 → ∀ bytes : List Byte, bytes.length ≤ g.cap →
      ∃ sts q1 q2, cbWriteBlock g j bytes q = .ok (sts, q1) ∧ cbReadBlock g j bytes.length q1 = .ok (bytes, q2) ∧
        (q2.slot j).cnt = 0)

/-- R56: `PB: WBLK` expands to one ADDB for each byte, in order; carried out with no other step in between, its net effect
on the held slot is to append the first `min(n, CAP − cnt)` bytes. -/
def Obligations.WblkAppendsWhatFits : Prop :=
  ∀ (s : State) (bytes : List Byte), s.Inv → s.halted = false → s.queueB.wHeld = true → s.portPB.cmd = none →
    let line : Line := { port := .pb, op := .wblk bytes }
    let j := s.queueB.writeSlot s.cfg.b
    Line.words line = bytes.map (fun b => 0x30#8 ++ b) ∧
    ∃ t, runEvents (Line.events line) s = .next t ∧
      t.queueB.slotBytes s.cfg.b j =
        s.queueB.slotBytes s.cfg.b j ++
          (bytes.take (min bytes.length (s.cfg.b.cap - (s.queueB.slot j).cnt.toNat))).map some ∧
      t.halted = false ∧ t.queueB.wHeld = true ∧ t.queueB.writeSlot s.cfg.b = j ∧ t.portPB.cmd = none

/-- R57: `CA: RBLK n` and `CB: RBLK n` expand to n REMBs; carried out with no other step in between, the bytes returned (the
DATA fields of the OK responses) are the oldest `min(n, cnt)` bytes of the held read slot, and the rest stays. -/
def Obligations.RblkReturnsTheOldestBytes : Prop :=
  ∀ (s : State) (p : Port) (x : QueueId) (n : Nat), s.Inv → s.halted = false →
    (p = .ca ∧ x = .a) ∨ (p = .cb ∧ x = .b) → (s.queue x).rHeld = true → (s.port p).cmd = none →
    let line : Line := { port := p, op := .rblk n }
    let g := s.cfg.queue x
    let j := (s.queue x).readSlot g
    Line.words line = List.replicate n 0xA000#16 ∧
    ∃ t, runEvents (Line.events line) s = .next t ∧
      (okBytes (completions p (Line.events line) s)).map some = ((s.queue x).slotBytes g j).take n ∧
      (t.queue x).slotBytes g j = ((s.queue x).slotBytes g j).drop n ∧
      t.halted = false ∧ (t.queue x).rHeld = true ∧ (t.queue x).readSlot g = j ∧ (t.port p).cmd = none

/-- R41: no step of one instance reads or writes the state of the other. An event of B has the same effect on B whatever A
and the parser hold, and leaves them alone; and the other way round. -/
def Obligations.QueuesDoNotInterfere : Prop :=
  (∀ (e : Event) (s s' t : State), sideOf e = some .b → AgreeOnB s s' → runEvent e s = .next t →
    (∃ t', runEvent e s' = .next t' ∧ AgreeOnB t t') ∧
      t.parser = s.parser ∧ t.queueA = s.queueA ∧ t.portI = s.portI ∧ t.portCA = s.portCA) ∧
  (∀ (e : Event) (s s' t : State), sideOf e = some .a → AgreeOnA s s' → runEvent e s = .next t →
    (∃ t', runEvent e s' = .next t' ∧ AgreeOnA t t') ∧
      t.queueB = s.queueB ∧ t.portPB = s.portPB ∧ t.portCB = s.portCB)

/-- R42: PEEK, WFULL, WEMPTY, RFULL and REMPTY change no state: where one completes, only its port's command and response
change; where it faults, only FAULT and FCMD. -/
def Obligations.PredicatesAndPeekChangeNoState : Prop :=
  ∀ (i : Instr) (s t : State), i ∈ [.peek, .wfull, .wempty, .rfull, .rempty] → exec i s = .next t →
    t = s ∨ t = { s with fault := t.fault, fcmd := encode i } ∨
      ∃ r, t = s.setPort s.turn.port { cmd := none, rsp := some r }
end

