-- ==== Sys2Proof/Laws/Decode.lean ====
section
/-! SUPPORT. The fields of an encoded command (R47), a word as its fields, and what a decoded word looks like. -/

namespace Sys2Proof

/-- The bits of a word built from its three fields. -/
theorem getLsbD_fields (a z : BitVec 4) (d : Byte) (k : Nat) :
    BitVec.getLsbD (w := 16) (a ++ z ++ d) k =
      if k < 8 then d.getLsbD k else if k < 12 then z.getLsbD (k - 8) else a.getLsbD (k - 12) := by
  refine (BitVec.getLsbD_append (x := a ++ z) (y := d) (i := k)).trans ?_
  by_cases h : k < 8
  · simp [h]
  · simp only [h, if_false]
    refine (BitVec.getLsbD_append (x := a) (y := z) (i := k - 8)).trans ?_
    by_cases h' : k < 12
    · simp [h', show k - 8 < 4 by omega]
    · simp [h', show ¬ (k - 8 < 4) by omega, show k - 8 - 4 = k - 12 by omega]

theorem opField_fields (a z : BitVec 4) (d : Byte) : opField (a ++ z ++ d) = a := by
  refine BitVec.eq_of_getLsbD_eq fun j hj => ?_
  rw [opField, BitVec.getLsbD_extractLsb', getLsbD_fields]
  simp [hj, show ¬ 12 + j < 8 by omega]

theorem zField_fields (a z : BitVec 4) (d : Byte) : zField (a ++ z ++ d) = z := by
  refine BitVec.eq_of_getLsbD_eq fun j hj => ?_
  rw [zField, BitVec.getLsbD_extractLsb', getLsbD_fields]
  simp [hj, show 8 + j < 12 by omega]

theorem dField_fields (a z : BitVec 4) (d : Byte) : dField (a ++ z ++ d) = d := by
  refine BitVec.eq_of_getLsbD_eq fun j hj => ?_
  rw [dField, BitVec.getLsbD_extractLsb', getLsbD_fields]
  simp [hj]

/-- A word is its three fields (R47). -/
theorem fields_join (w : Word) : opField w ++ zField w ++ dField w = w := by
  refine BitVec.eq_of_getLsbD_eq fun j hj => ?_
  refine (getLsbD_fields _ _ _ j).trans ?_
  simp only [opField, zField, dField, BitVec.getLsbD_extractLsb']
  by_cases h : j < 8
  · simp [h]
  · by_cases h' : j < 12
    · simp [h, h', show j - 8 < 4 by omega, show 8 + (j - 8) = j by omega]
    · simp [h, h', show j - 12 < 4 by omega, show 12 + (j - 12) = j by omega]

@[simp] theorem opField_encode (i : Instr) : opField (encode i) = opcode i := opField_fields _ _ _
@[simp] theorem zField_encode (i : Instr) : zField (encode i) = 0 := zField_fields _ _ _
@[simp] theorem dField_encode (i : Instr) : dField (encode i) = operandByte i := dField_fields _ _ _

/-- A decoded word has Z = 0 (R52 (a)). -/
theorem decode_ok_zField (w : Word) (i : Instr) (h : decode w = .ok i) : zField w = 0 ∧ decodeOp w = .ok i := by
  unfold decode at h
  split at h
  · exact ⟨‹_›, h⟩
  · cases h

/-- An operand-less command is decoded exactly where D is 0x00 (R52 (d)). -/
theorem decodeBare_ok (w : Word) (i k : Instr) : decodeBare w i = .ok k ↔ dField w = 0 ∧ k = i := by
  unfold decodeBare
  split <;> simp_all [eq_comm]

end Sys2Proof
end

