-- ==== Sys2Proof/Laws/State.lean ====
section
/-! SUPPORT. One lemma per field per update of the state record, so that no later proof unfolds an update. -/

namespace Sys2Proof.Machine

/-! ## Ports and queues of a state -/

@[simp] theorem State.port_i (s : State) : s.port .i = s.portI := rfl
@[simp] theorem State.port_ca (s : State) : s.port .ca = s.portCA := rfl
@[simp] theorem State.port_pb (s : State) : s.port .pb = s.portPB := rfl
@[simp] theorem State.port_cb (s : State) : s.port .cb = s.portCB := rfl
@[simp] theorem State.setPort_i (s : State) (v : PortState) : s.setPort .i v = { s with portI := v } := rfl
@[simp] theorem State.setPort_ca (s : State) (v : PortState) : s.setPort .ca v = { s with portCA := v } := rfl
@[simp] theorem State.setPort_pb (s : State) (v : PortState) : s.setPort .pb v = { s with portPB := v } := rfl
@[simp] theorem State.setPort_cb (s : State) (v : PortState) : s.setPort .cb v = { s with portCB := v } := rfl
@[simp] theorem State.queue_a (s : State) : s.queue .a = s.queueA := rfl
@[simp] theorem State.queue_b (s : State) : s.queue .b = s.queueB := rfl
@[simp] theorem State.setQueue_a (s : State) (q : Queue) : s.setQueue .a q = { s with queueA := q } := rfl
@[simp] theorem State.setQueue_b (s : State) (q : Queue) : s.setQueue .b q = { s with queueB := q } := rfl
@[simp] theorem Config.queue_a (c : Config) : c.queue .a = c.a := rfl
@[simp] theorem Config.queue_b (c : Config) : c.queue .b = c.b := rfl

/-! ## setPort -/

@[simp] theorem State.setPort_cfg (s : State) (p : Port) (v : PortState) : (s.setPort p v).cfg = s.cfg := by cases p <;> rfl
@[simp] theorem State.setPort_fault (s : State) (p : Port) (v : PortState) : (s.setPort p v).fault = s.fault := by cases p <;> rfl
@[simp] theorem State.setPort_fcmd (s : State) (p : Port) (v : PortState) : (s.setPort p v).fcmd = s.fcmd := by cases p <;> rfl
@[simp] theorem State.setPort_parser (s : State) (p : Port) (v : PortState) : (s.setPort p v).parser = s.parser := by cases p <;> rfl
@[simp] theorem State.setPort_queueA (s : State) (p : Port) (v : PortState) : (s.setPort p v).queueA = s.queueA := by cases p <;> rfl
@[simp] theorem State.setPort_queueB (s : State) (p : Port) (v : PortState) : (s.setPort p v).queueB = s.queueB := by cases p <;> rfl
@[simp] theorem State.setPort_turn (s : State) (p : Port) (v : PortState) : (s.setPort p v).turn = s.turn := by cases p <;> rfl
@[simp] theorem State.setPort_tape (s : State) (p : Port) (v : PortState) : (s.setPort p v).tape = s.tape := by cases p <;> rfl
@[simp] theorem State.setPort_drawn (s : State) (p : Port) (v : PortState) : (s.setPort p v).drawn = s.drawn := by cases p <;> rfl
@[simp] theorem State.setPort_port (s : State) (p : Port) (v : PortState) : (s.setPort p v).port p = v := by cases p <;> rfl
theorem State.setPort_port_other (s : State) (p p' : Port) (v : PortState) (h : p' ≠ p) : (s.setPort p v).port p' = s.port p' := by
  cases p <;> cases p' <;> first | rfl | exact absurd rfl h
@[simp] theorem State.setPort_halted (s : State) (p : Port) (v : PortState) : (s.setPort p v).halted = s.halted := by cases p <;> rfl
@[simp] theorem State.setPort_queue (s : State) (p : Port) (v : PortState) (x : QueueId) : (s.setPort p v).queue x = s.queue x := by
  cases p <;> cases x <;> rfl
theorem State.setPort_self (s : State) (p : Port) : s.setPort p (s.port p) = s := by cases p <;> rfl
@[simp] theorem State.setPort_setPort (s : State) (p : Port) (v w : PortState) : (s.setPort p v).setPort p w = s.setPort p w := by cases p <;> rfl

/-! ## setQueue -/

@[simp] theorem State.setQueue_cfg (s : State) (x : QueueId) (q : Queue) : (s.setQueue x q).cfg = s.cfg := by cases x <;> rfl
@[simp] theorem State.setQueue_fault (s : State) (x : QueueId) (q : Queue) : (s.setQueue x q).fault = s.fault := by cases x <;> rfl
@[simp] theorem State.setQueue_fcmd (s : State) (x : QueueId) (q : Queue) : (s.setQueue x q).fcmd = s.fcmd := by cases x <;> rfl
@[simp] theorem State.setQueue_parser (s : State) (x : QueueId) (q : Queue) : (s.setQueue x q).parser = s.parser := by cases x <;> rfl
@[simp] theorem State.setQueue_portI (s : State) (x : QueueId) (q : Queue) : (s.setQueue x q).portI = s.portI := by cases x <;> rfl
@[simp] theorem State.setQueue_portCA (s : State) (x : QueueId) (q : Queue) : (s.setQueue x q).portCA = s.portCA := by cases x <;> rfl
@[simp] theorem State.setQueue_portPB (s : State) (x : QueueId) (q : Queue) : (s.setQueue x q).portPB = s.portPB := by cases x <;> rfl
@[simp] theorem State.setQueue_portCB (s : State) (x : QueueId) (q : Queue) : (s.setQueue x q).portCB = s.portCB := by cases x <;> rfl
@[simp] theorem State.setQueue_turn (s : State) (x : QueueId) (q : Queue) : (s.setQueue x q).turn = s.turn := by cases x <;> rfl
@[simp] theorem State.setQueue_tape (s : State) (x : QueueId) (q : Queue) : (s.setQueue x q).tape = s.tape := by cases x <;> rfl
@[simp] theorem State.setQueue_drawn (s : State) (x : QueueId) (q : Queue) : (s.setQueue x q).drawn = s.drawn := by cases x <;> rfl
@[simp] theorem State.setQueue_queue (s : State) (x : QueueId) (q : Queue) : (s.setQueue x q).queue x = q := by cases x <;> rfl
theorem State.setQueue_queue_other (s : State) (x y : QueueId) (q : Queue) (h : y ≠ x) : (s.setQueue x q).queue y = s.queue y := by
  cases x <;> cases y <;> first | rfl | exact absurd rfl h
@[simp] theorem State.setQueue_port (s : State) (x : QueueId) (q : Queue) (p : Port) : (s.setQueue x q).port p = s.port p := by
  cases x <;> cases p <;> rfl
@[simp] theorem State.setQueue_halted (s : State) (x : QueueId) (q : Queue) : (s.setQueue x q).halted = s.halted := by cases x <;> rfl
@[simp] theorem State.setQueue_self (s : State) (x : QueueId) : s.setQueue x (s.queue x) = s := by cases x <;> rfl

/-! ## answer and raise -/

@[simp] theorem State.answer_cfg (s : State) (p : Port) (r : Word) : (s.answer p r).cfg = s.cfg := by cases p <;> rfl
@[simp] theorem State.answer_fault (s : State) (p : Port) (r : Word) : (s.answer p r).fault = s.fault := by cases p <;> rfl
@[simp] theorem State.answer_fcmd (s : State) (p : Port) (r : Word) : (s.answer p r).fcmd = s.fcmd := by cases p <;> rfl
@[simp] theorem State.answer_parser (s : State) (p : Port) (r : Word) : (s.answer p r).parser = s.parser := by cases p <;> rfl
@[simp] theorem State.answer_queueA (s : State) (p : Port) (r : Word) : (s.answer p r).queueA = s.queueA := by cases p <;> rfl
@[simp] theorem State.answer_queueB (s : State) (p : Port) (r : Word) : (s.answer p r).queueB = s.queueB := by cases p <;> rfl
@[simp] theorem State.answer_turn (s : State) (p : Port) (r : Word) : (s.answer p r).turn = s.turn := by cases p <;> rfl
@[simp] theorem State.answer_tape (s : State) (p : Port) (r : Word) : (s.answer p r).tape = s.tape := by cases p <;> rfl
@[simp] theorem State.answer_drawn (s : State) (p : Port) (r : Word) : (s.answer p r).drawn = s.drawn := by cases p <;> rfl
@[simp] theorem State.answer_port (s : State) (p : Port) (r : Word) : (s.answer p r).port p = { cmd := none, rsp := some r } := by
  cases p <;> rfl
@[simp] theorem State.answer_halted (s : State) (p : Port) (r : Word) : (s.answer p r).halted = s.halted := by cases p <;> rfl
@[simp] theorem State.raise_cfg (s : State) (p : Port) (w : Word) (c : FaultCode) : (s.raise p w c).cfg = s.cfg := rfl
@[simp] theorem State.raise_parser (s : State) (p : Port) (w : Word) (c : FaultCode) : (s.raise p w c).parser = s.parser := rfl
@[simp] theorem State.raise_queueA (s : State) (p : Port) (w : Word) (c : FaultCode) : (s.raise p w c).queueA = s.queueA := rfl
@[simp] theorem State.raise_queueB (s : State) (p : Port) (w : Word) (c : FaultCode) : (s.raise p w c).queueB = s.queueB := rfl
@[simp] theorem State.raise_portI (s : State) (p : Port) (w : Word) (c : FaultCode) : (s.raise p w c).portI = s.portI := rfl
@[simp] theorem State.raise_portCA (s : State) (p : Port) (w : Word) (c : FaultCode) : (s.raise p w c).portCA = s.portCA := rfl
@[simp] theorem State.raise_portPB (s : State) (p : Port) (w : Word) (c : FaultCode) : (s.raise p w c).portPB = s.portPB := rfl
@[simp] theorem State.raise_portCB (s : State) (p : Port) (w : Word) (c : FaultCode) : (s.raise p w c).portCB = s.portCB := rfl
@[simp] theorem State.raise_turn (s : State) (p : Port) (w : Word) (c : FaultCode) : (s.raise p w c).turn = s.turn := rfl
@[simp] theorem State.raise_tape (s : State) (p : Port) (w : Word) (c : FaultCode) : (s.raise p w c).tape = s.tape := rfl
@[simp] theorem State.raise_drawn (s : State) (p : Port) (w : Word) (c : FaultCode) : (s.raise p w c).drawn = s.drawn := rfl
@[simp] theorem State.raise_fault (s : State) (p : Port) (w : Word) (c : FaultCode) : (s.raise p w c).fault = faultWord p c := rfl
@[simp] theorem State.raise_fcmd (s : State) (p : Port) (w : Word) (c : FaultCode) : (s.raise p w c).fcmd = w := rfl
theorem faultWord_halted (p : Port) (c : FaultCode) : (faultWord p c).getLsbD 15 = true := by
  cases p <;> cases c <;> decide
theorem faultWord_src (p : Port) (c : FaultCode) : (faultWord p c).extractLsb' 12 3 = portNumber p := by
  cases p <;> cases c <;> decide
theorem faultWord_code (p : Port) (c : FaultCode) : (faultWord p c).extractLsb' 0 8 = c.code := by
  cases p <;> cases c <;> decide
@[simp] theorem State.raise_halted (s : State) (p : Port) (w : Word) (c : FaultCode) : (s.raise p w c).halted = true :=
  faultWord_halted p c
@[simp] theorem State.raise_faultSrc (s : State) (p : Port) (w : Word) (c : FaultCode) : (s.raise p w c).faultSrc = portNumber p :=
  faultWord_src p c
@[simp] theorem State.raise_faultCode (s : State) (p : Port) (w : Word) (c : FaultCode) : (s.raise p w c).faultCode = c.code :=
  faultWord_code p c

/-! ## advance -/

@[simp] theorem State.advance_cfg (s : State) : s.advance.cfg = s.cfg := by unfold State.advance; split <;> rfl
@[simp] theorem State.advance_fault (s : State) : s.advance.fault = s.fault := by unfold State.advance; split <;> rfl
@[simp] theorem State.advance_fcmd (s : State) : s.advance.fcmd = s.fcmd := by unfold State.advance; split <;> rfl
@[simp] theorem State.advance_parser (s : State) : s.advance.parser = s.parser := by unfold State.advance; split <;> rfl
@[simp] theorem State.advance_queueA (s : State) : s.advance.queueA = s.queueA := by unfold State.advance; split <;> rfl
@[simp] theorem State.advance_queueB (s : State) : s.advance.queueB = s.queueB := by unfold State.advance; split <;> rfl
@[simp] theorem State.advance_portI (s : State) : s.advance.portI = s.portI := by unfold State.advance; split <;> rfl
@[simp] theorem State.advance_portCA (s : State) : s.advance.portCA = s.portCA := by unfold State.advance; split <;> rfl
@[simp] theorem State.advance_portPB (s : State) : s.advance.portPB = s.portPB := by unfold State.advance; split <;> rfl
@[simp] theorem State.advance_portCB (s : State) : s.advance.portCB = s.portCB := by unfold State.advance; split <;> rfl
@[simp] theorem State.advance_turn (s : State) : s.advance.turn = s.turn := by unfold State.advance; split <;> rfl
@[simp] theorem State.advance_port (s : State) (p : Port) : s.advance.port p = s.port p := by unfold State.advance; split <;> cases p <;> rfl
@[simp] theorem State.advance_halted (s : State) : s.advance.halted = s.halted := by unfold State.advance; split <;> rfl

/-! ## blockReset -/

@[simp] theorem State.blockReset_cfg (s : State) : s.blockReset.cfg = s.cfg := rfl
@[simp] theorem State.blockReset_fault (s : State) : s.blockReset.fault = 0 := rfl
@[simp] theorem State.blockReset_fcmd (s : State) : s.blockReset.fcmd = 0 := rfl
@[simp] theorem State.blockReset_parser (s : State) : s.blockReset.parser = Parser.reset := rfl
@[simp] theorem State.blockReset_queueA (s : State) : s.blockReset.queueA = Queue.reset s.cfg.a := rfl
@[simp] theorem State.blockReset_queueB (s : State) : s.blockReset.queueB = Queue.reset s.cfg.b := rfl
@[simp] theorem State.blockReset_port (s : State) (p : Port) : s.blockReset.port p = PortState.idle := by cases p <;> rfl
@[simp] theorem State.blockReset_tape (s : State) : s.blockReset.tape = s.tape := rfl
@[simp] theorem State.blockReset_drawn (s : State) : s.blockReset.drawn = s.drawn := rfl
@[simp] theorem State.blockReset_halted (s : State) : s.blockReset.halted = false := by
  simp [State.halted]

/-! ## Slots of a queue -/

@[simp] theorem Queue.setSlot_arbiter (q : Queue) (j : Nat) (v : Slot) : (q.setSlot j v).arbiter = q.arbiter := rfl
@[simp] theorem Queue.setSlot_wHeld (q : Queue) (j : Nat) (v : Slot) : (q.setSlot j v).wHeld = q.wHeld := rfl
@[simp] theorem Queue.setSlot_rHeld (q : Queue) (j : Nat) (v : Slot) : (q.setSlot j v).rHeld = q.rHeld := rfl
@[simp] theorem Queue.setSlot_ram (q : Queue) (j : Nat) (v : Slot) : (q.setSlot j v).ram = q.ram := rfl
@[simp] theorem Queue.setSlot_length (q : Queue) (j : Nat) (v : Slot) : (q.setSlot j v).slots.length = q.slots.length := by
  simp [Queue.setSlot]
theorem Queue.setSlot_slot (q : Queue) (j : Nat) (v : Slot) (h : j < q.slots.length) : (q.setSlot j v).slot j = v := by
  simp [Queue.setSlot, Queue.slot, List.getD_eq_getElem?_getD, h]
theorem Queue.setSlot_slot_other (q : Queue) (j k : Nat) (v : Slot) (h : k ≠ j) : (q.setSlot j v).slot k = q.slot k := by
  simp [Queue.setSlot, Queue.slot, List.getD_eq_getElem?_getD, List.getElem?_set_ne h.symm]

/-! ## Parser updates -/

@[simp] theorem Parser.emitFrame_st (p : Parser) (len : Word) : (p.emitFrame len).st = p.st := rfl
@[simp] theorem Parser.emitFrame_csum (p : Parser) (len : Word) : (p.emitFrame len).csum = p.csum := rfl
@[simp] theorem Parser.emitFrame_plen (p : Parser) (len : Word) : (p.emitFrame len).plen = p.plen := rfl
@[simp] theorem Parser.emitFrame_idx (p : Parser) (len : Word) : (p.emitFrame len).idx = p.idx := rfl
@[simp] theorem Parser.emitFrame_data (p : Parser) (len : Word) : (p.emitFrame len).data = p.data := rfl
@[simp] theorem Parser.emitFrame_pend (p : Parser) (len : Word) : (p.emitFrame len).pend = true := rfl
@[simp] theorem Parser.emitFrame_pendLen (p : Parser) (len : Word) : (p.emitFrame len).pendLen = len := rfl
@[simp] theorem Parser.fail_csum (p : Parser) (e : FramingError) : (p.fail e).csum = p.csum := rfl
@[simp] theorem Parser.fail_plen (p : Parser) (e : FramingError) : (p.fail e).plen = p.plen := rfl
@[simp] theorem Parser.fail_idx (p : Parser) (e : FramingError) : (p.fail e).idx = p.idx := rfl
@[simp] theorem Parser.fail_data (p : Parser) (e : FramingError) : (p.fail e).data = p.data := rfl
@[simp] theorem Parser.fail_st (p : Parser) (e : FramingError) : (p.fail e).st = .errorRecovery := rfl
@[simp] theorem Parser.fail_pend (p : Parser) (e : FramingError) : (p.fail e).pend = true := rfl
@[simp] theorem Parser.fail_pendLen (p : Parser) (e : FramingError) : (p.fail e).pendLen = e.length := rfl

end Sys2Proof.Machine
end

