-- ==== Sys2Proof/Laws/Memory.lean ====
section
/-! SUPPORT. The storage arrays: read after write, and every write keeps the canonical form. -/

namespace Sys2Proof.Machine

@[simp] theorem Memory.read_nil (a : Nat) : Memory.read [] a = none := rfl

theorem Memory.read_write_same (m : Memory) (a : Nat) (v : Byte) : (m.write a v).read a = some v := by
  induction m with
  | nil => simp [Memory.write, Memory.read]
  | cons c rest ih =>
    obtain ⟨b, w⟩ := c
    simp only [Memory.write]
    split
    · simp [Memory.read]
    · split
      · simp [Memory.read, *]
      · simp [Memory.read, *]

theorem Memory.read_write_other (m : Memory) (a b : Nat) (v : Byte) (h : b ≠ a) : (m.write a v).read b = m.read b := by
  induction m with
  | nil => simp [Memory.write, Memory.read, h]
  | cons c rest ih =>
    obtain ⟨k, w⟩ := c
    simp only [Memory.write]
    split
    · simp [Memory.read, h]
    · split
      · rename_i hk
        subst hk
        simp [Memory.read, h]
      · simp only [Memory.read, ih]

theorem Memory.read_write (m : Memory) (a b : Nat) (v : Byte) :
    (m.write a v).read b = if b = a then some v else m.read b := by
  split
  · rename_i h
    rw [h, Memory.read_write_same]
  · exact Memory.read_write_other m a b v ‹_›

theorem Memory.mem_write (m : Memory) (a : Nat) (v : Byte) (c : Host.Cell) (h : c ∈ m.write a v) :
    c = (a, v) ∨ c ∈ m := by
  induction m with
  | nil => simpa [Memory.write] using h
  | cons d rest ih =>
    obtain ⟨k, w⟩ := d
    simp only [Memory.write] at h
    split at h
    · simpa using h
    · split at h
      · rename_i hk
        rcases List.mem_cons.mp h with h | h
        · exact .inl (by rw [h, hk])
        · exact .inr (List.mem_cons_of_mem _ h)
      · rcases List.mem_cons.mp h with h | h
        · exact .inr (by simp [h])
        · exact (ih h).imp id (List.mem_cons_of_mem _)

theorem Memory.write_wf (m : Memory) (a : Nat) (v : Byte) (h : m.wf) : (m.write a v).wf := by
  induction m with
  | nil => simp [Memory.write]
  | cons d rest ih =>
    obtain ⟨k, w⟩ := d
    have hk := List.pairwise_cons.mp h
    simp only [Memory.write]
    split
    · rename_i hlt
      refine List.pairwise_cons.mpr ⟨?_, h⟩
      intro c hc
      rcases List.mem_cons.mp hc with hc | hc
      · simpa [hc] using hlt
      · exact lt_trans hlt (hk.1 c hc)
    · split
      · exact List.pairwise_cons.mpr ⟨hk.1, hk.2⟩
      · refine List.pairwise_cons.mpr ⟨?_, ih hk.2⟩
        intro c hc
        rcases Memory.mem_write rest a v c hc with hc | hc
        · subst hc
          show k < a
          omega
        · exact hk.1 c hc

/-- What `forget` leaves. -/
theorem Memory.read_forget (m : Memory) (lo hi a : Nat) :
    (m.forget lo hi).read a = if lo ≤ a ∧ a < hi then none else m.read a := by
  induction m with
  | nil => simp [Memory.forget]
  | cons d rest ih =>
    obtain ⟨k, w⟩ := d
    by_cases hk : lo ≤ k ∧ k < hi
    · rw [show Memory.forget ((k, w) :: rest) lo hi = Memory.forget rest lo hi by simp [Memory.forget, hk], ih]
      by_cases ha : lo ≤ a ∧ a < hi
      · simp [ha]
      · have : a ≠ k := fun h => ha (h ▸ hk)
        simp [ha, Memory.read, this]
    · rw [show Memory.forget ((k, w) :: rest) lo hi = (k, w) :: Memory.forget rest lo hi by
        simp only [Memory.forget, List.filter_cons, hk]; simp]
      simp only [Memory.read, ih]
      by_cases ha : a = k
      · subst ha; simp [hk]
      · simp [ha]

theorem Memory.mem_forget (m : Memory) (lo hi : Nat) (c : Host.Cell) (h : c ∈ m.forget lo hi) : c ∈ m :=
  (List.mem_filter.mp h).1

/-- Forgetting bytes keeps the canonical form. -/
theorem Memory.forget_wf (m : Memory) (lo hi : Nat) (h : m.wf) : (m.forget lo hi).wf := h.filter _

theorem Memory.reset_wf : State.reset.queueA.ram.wf ∧ State.reset.queueB.ram.wf ∧ State.reset.parser.data.wf :=
  ⟨List.Pairwise.nil, List.Pairwise.nil, List.Pairwise.nil⟩

/-- What a read of a slot RAM can do (R30, R32). -/
theorem ramRead_ok (g : QueueParams) (q : Queue) (a : Nat) (v : Byte) :
    ramRead g q a = .ok v ↔ a < ramSize g ∧ q.ram.read a = some v := by
  unfold ramRead
  split
  · cases h : q.ram.read a <;> simp_all
  · simp_all

/-- What a write of a slot RAM can do (R32). -/
theorem ramWrite_ok (g : QueueParams) (q t : Queue) (a : Nat) (v : Byte) :
    ramWrite g q a v = .ok t ↔ a < ramSize g ∧ t = { q with ram := q.ram.write a v } := by
  unfold ramWrite
  split <;> simp_all [eq_comm]

/-- A write of a slot RAM keeps its canonical form. -/
theorem ramWrite_wf (g : QueueParams) (q t : Queue) (a : Nat) (v : Byte) (h : ramWrite g q a v = .ok t)
    (hq : q.ram.wf) : t.ram.wf := by
  obtain ⟨-, rfl⟩ := (ramWrite_ok g q t a v).mp h
  exact Memory.write_wf _ _ _ hq

/-- What a read of the payload buffer can do (R33). -/
theorem payloadRead_ok (m : Memory) (k : Nat) (v : Byte) :
    payloadRead m k = .ok v ↔ k < payloadSize ∧ m.read k = some v := by
  unfold payloadRead
  split
  · cases h : m.read k <;> simp_all
  · simp_all

/-- What a write of the payload buffer can do (R33). -/
theorem payloadWrite_ok (m t : Memory) (k : Nat) (v : Byte) :
    payloadWrite m k v = .ok t ↔ k < payloadSize ∧ t = m.write k v := by
  unfold payloadWrite
  split <;> simp_all [eq_comm]

/-- A write of the payload buffer keeps its canonical form. -/
theorem payloadWrite_wf (m t : Memory) (k : Nat) (v : Byte) (h : payloadWrite m k v = .ok t) (hm : m.wf) : t.wf := by
  obtain ⟨-, rfl⟩ := (payloadWrite_ok m t k v).mp h
  exact Memory.write_wf _ _ _ hm

end Sys2Proof.Machine
end

