-- ==== Sys2Proof/Laws/Ops.lean ====
section
/-! SUPPORT. What the frame of a command can do (R106), said once. -/

namespace Sys2Proof.Machine

theorem conclude_respond (i : Instr) (s t : State) (st : Status) (d : Byte) :
    conclude i s (.respond st d t) = .next (t.answer s.turn.port (responseWord st d)) := rfl

theorem conclude_hold (i : Instr) (s : State) : conclude i s .hold = .next s := rfl

theorem conclude_raise (i : Instr) (s : State) (c : FaultCode) :
    conclude i s (.raise c) = .next (s.raise s.turn.port (encode i) c) := rfl

theorem conclude_stop (i : Instr) (s : State) (f : Fault) : conclude i s (.stop f) = .fault f := rfl

/-- A halted block has no step (R106, R107). -/
theorem command_halted (i : Instr) (s : State) (a : Action) (h : s.halted = true) : command i s a = .next s := by
  simp [command, h]

/-- A command that is illegal on the scheduled port (R52 (c), (e)). -/
theorem command_illegal (i : Instr) (s : State) (a : Action) (h : s.halted = false)
    (hl : legalOn s.cfg.timedAcquire s.turn.port i = false) :
    command i s a = .next (s.raise s.turn.port (encode i) .illegalCommand) := by
  simp [command, h, hl, conclude]

/-- A command that is legal on the scheduled port is decided by its rule. -/
theorem command_legal (i : Instr) (s : State) (a : Action) (h : s.halted = false)
    (hl : legalOn s.cfg.timedAcquire s.turn.port i = true) : command i s a = conclude i s a := by
  simp [command, h, hl]

/-- Everything a decision can do if it answers a next state. -/
theorem conclude_next (i : Instr) (s t : State) (a : Action) (h : conclude i s a = .next t) :
    (∃ st d u, a = .respond st d u ∧ t = u.answer s.turn.port (responseWord st d)) ∨ (a = .hold ∧ t = s) ∨
      ∃ c, a = .raise c ∧ t = s.raise s.turn.port (encode i) c := by
  cases a with
  | respond st d u => exact .inl ⟨st, d, u, rfl, by simpa [conclude] using h.symm⟩
  | hold => exact .inr (.inl ⟨rfl, by simpa [conclude] using h.symm⟩)
  | raise c => exact .inr (.inr ⟨c, rfl, by simpa [conclude] using h.symm⟩)
  | stop f => simp [conclude] at h

/-- Everything a command can do if it answers a next state: no step in a halted block, ILLEGAL_COMMAND, or what its rule
decides. -/
theorem command_next (i : Instr) (s t : State) (a : Action) (h : command i s a = .next t) :
    (s.halted = true ∧ t = s) ∨
      (s.halted = false ∧ legalOn s.cfg.timedAcquire s.turn.port i = false ∧
        t = s.raise s.turn.port (encode i) .illegalCommand) ∨
      (s.halted = false ∧ legalOn s.cfg.timedAcquire s.turn.port i = true ∧ conclude i s a = .next t) := by
  cases hh : s.halted with
  | true => rw [command_halted i s a hh] at h; exact .inl ⟨rfl, by simpa using h.symm⟩
  | false =>
    cases hl : legalOn s.cfg.timedAcquire s.turn.port i with
    | true => rw [command_legal i s a hh hl] at h; exact .inr (.inr ⟨rfl, rfl, h⟩)
    | false => rw [command_illegal i s a hh hl] at h; exact .inr (.inl ⟨rfl, rfl, by simpa using h.symm⟩)

/-- A command stops only where its rule stops. -/
theorem command_fault (i : Instr) (s : State) (a : Action) (f : Fault) (h : command i s a = .fault f) :
    a = .stop f := by
  unfold command at h
  split at h
  · cases h
  · split at h
    · cases a with
      | stop g => simpa [conclude] using h
      | respond st d u => simp [conclude] at h
      | hold => simp [conclude] at h
      | raise c => simp [conclude] at h
    · simp [conclude] at h

/-- A command is never refused. -/
theorem command_not_refused (i : Instr) (s : State) (a : Action) (r : Refusal) : command i s a ≠ .refused r := by
  unfold command
  split
  · simp
  · split
    · cases a <;> simp [conclude]
    · simp [conclude]

end Sys2Proof.Machine
end

