-- ==== Sys2Proof/Laws/CircularBuffer.lean ====
section
/-! SUPPORT. What each CircularByteBuffer operation can do, said once (40_circular_buffer.md). -/

namespace Sys2Proof.Machine

@[simp] theorem cbIsFull_q (g : QueueParams) (j : Nat) (q : Queue) : (cbIsFull g j q).q = q := rfl
@[simp] theorem cbIsFull_st (g : QueueParams) (j : Nat) (q : Queue) : (cbIsFull g j q).st = .ok := rfl
@[simp] theorem cbIsEmpty_q (j : Nat) (q : Queue) : (cbIsEmpty j q).q = q := rfl
@[simp] theorem cbIsEmpty_st (j : Nat) (q : Queue) : (cbIsEmpty j q).st = .ok := rfl

@[simp] theorem cbReset_arbiter (g : QueueParams) (j : Nat) (q : Queue) : (cbReset g j q).arbiter = q.arbiter := rfl
@[simp] theorem cbReset_wHeld (g : QueueParams) (j : Nat) (q : Queue) : (cbReset g j q).wHeld = q.wHeld := rfl
@[simp] theorem cbReset_rHeld (g : QueueParams) (j : Nat) (q : Queue) : (cbReset g j q).rHeld = q.rHeld := rfl
@[simp] theorem cbReset_slots (g : QueueParams) (j : Nat) (q : Queue) :
    (cbReset g j q).slots = q.slots.set j Slot.empty := rfl

/-- CB_Reset takes the values of its own slot's bytes and of no other (R30, R32, R59). -/
theorem cbReset_read (g : QueueParams) (j : Nat) (q : Queue) (a : Nat) :
    (cbReset g j q).ram.read a = if j * g.cap ≤ a ∧ a < j * g.cap + g.cap then none else q.ram.read a :=
  Memory.read_forget _ _ _ _

/-- A cursor one position on stays below CAP (R62, R63). -/
theorem nextCursor_toNat (g : QueueParams) (c : Word) (h1 : 1 ≤ g.cap) (h2 : g.cap ≤ 65535) :
    (nextCursor g c).toNat = (c.toNat + 1) % g.cap := by
  have := Nat.mod_lt (c.toNat + 1) (show 0 < g.cap by omega)
  simp only [nextCursor, BitVec.toNat_ofNat]
  exact Nat.mod_eq_of_lt (by omega)

/-- Everything CB_AddByte can do (R62). -/
theorem cbAddByte_ok (g : QueueParams) (j : Nat) (b : Byte) (q : Queue) (r : Reply) (h : cbAddByte g j b q = .ok r) :
    ((q.slot j).cnt.toNat = g.cap ∧ r = { st := .full, value := 0, q := q }) ∨
    ((q.slot j).cnt.toNat ≠ g.cap ∧ slotAddr g j (q.slot j).wr.toNat < ramSize g ∧
      r = { st := .ok,
            value := b,
            q := Queue.setSlot { q with ram := q.ram.write (slotAddr g j (q.slot j).wr.toNat) b } j
              { q.slot j with wr := nextCursor g (q.slot j).wr, cnt := (q.slot j).cnt + 1 } }) := by
  simp only [cbAddByte, slotFull, decide_eq_true_eq] at h
  split at h
  · exact .inl ⟨‹_›, by simpa using h.symm⟩
  · unfold ramWrite at h
    by_cases ha : slotAddr g j (q.slot j).wr.toNat < ramSize g
    · exact .inr ⟨‹_›, ha, by simpa [ha] using h.symm⟩
    · simp [ha] at h

/-- CB_AddByte on a slot that is not full, within its RAM (R62). -/
theorem cbAddByte_appends (g : QueueParams) (j : Nat) (b : Byte) (q : Queue) (hc : (q.slot j).cnt.toNat ≠ g.cap)
    (ha : slotAddr g j (q.slot j).wr.toNat < ramSize g) :
    cbAddByte g j b q =
      .ok { st := .ok,
            value := b,
            q := Queue.setSlot { q with ram := q.ram.write (slotAddr g j (q.slot j).wr.toNat) b } j
              { q.slot j with wr := nextCursor g (q.slot j).wr, cnt := (q.slot j).cnt + 1 } } := by
  simp [cbAddByte, slotFull, hc, ramWrite, ha]

/-- Everything CB_RemoveByte can do (R63). -/
theorem cbRemoveByte_ok (g : QueueParams) (j : Nat) (q : Queue) (r : Reply) (h : cbRemoveByte g j q = .ok r) :
    ((q.slot j).cnt.toNat = 0 ∧ r = { st := .empty, value := 0, q := q }) ∨
    ((q.slot j).cnt.toNat ≠ 0 ∧ slotAddr g j (q.slot j).rd.toNat < ramSize g ∧
      ∃ v, q.ram.read (slotAddr g j (q.slot j).rd.toNat) = some v ∧
        r = { st := .ok,
              value := v,
              q := q.setSlot j { q.slot j with rd := nextCursor g (q.slot j).rd, cnt := (q.slot j).cnt - 1 } }) := by
  simp only [cbRemoveByte, slotEmpty, decide_eq_true_eq] at h
  split at h
  · exact .inl ⟨‹_›, by simpa using h.symm⟩
  · cases hr : ramRead g q (slotAddr g j (q.slot j).rd.toNat) with
    | error f => simp [hr] at h
    | ok v =>
      obtain ⟨ha, hv⟩ := (ramRead_ok g q _ v).mp hr
      exact .inr ⟨‹_›, ha, v, hv, by simpa [hr] using h.symm⟩

/-- Everything CB_PeekByte can do (R64). -/
theorem cbPeekByte_ok (g : QueueParams) (j : Nat) (q : Queue) (r : Reply) (h : cbPeekByte g j q = .ok r) :
    ((q.slot j).cnt.toNat = 0 ∧ r = { st := .empty, value := 0, q := q }) ∨
    ((q.slot j).cnt.toNat ≠ 0 ∧ slotAddr g j (q.slot j).rd.toNat < ramSize g ∧
      ∃ v, q.ram.read (slotAddr g j (q.slot j).rd.toNat) = some v ∧ r = { st := .ok, value := v, q := q }) := by
  simp only [cbPeekByte, slotEmpty, decide_eq_true_eq] at h
  split at h
  · exact .inl ⟨‹_›, by simpa using h.symm⟩
  · cases hr : ramRead g q (slotAddr g j (q.slot j).rd.toNat) with
    | error f => simp [hr] at h
    | ok v =>
      obtain ⟨ha, hv⟩ := (ramRead_ok g q _ v).mp hr
      exact .inr ⟨‹_›, ha, v, hv, by simpa [hr] using h.symm⟩

end Sys2Proof.Machine
end

