-- ==== Sys2Proof/Laws/Arbiter.lean ====
section
/-! SUPPORT. What each arbiter operation changes and leaves unchanged, and its arithmetic (R82). -/

namespace Sys2Proof.Machine

@[simp] theorem Queue.acquireWrite_slots (q : Queue) : q.acquireWrite.slots = q.slots := by
  unfold Queue.acquireWrite; split <;> rfl
@[simp] theorem Queue.acquireWrite_ram (q : Queue) : q.acquireWrite.ram = q.ram := by
  unfold Queue.acquireWrite; split <;> rfl
@[simp] theorem Queue.acquireWrite_wHeld (q : Queue) : q.acquireWrite.wHeld = true := by
  unfold Queue.acquireWrite; split <;> rfl
@[simp] theorem Queue.acquireWrite_rHeld (q : Queue) : q.acquireWrite.rHeld = q.rHeld := by
  unfold Queue.acquireWrite; split <;> rfl
@[simp] theorem Queue.acquireRead_slots (q : Queue) : q.acquireRead.slots = q.slots := by
  unfold Queue.acquireRead; split <;> rfl
@[simp] theorem Queue.acquireRead_ram (q : Queue) : q.acquireRead.ram = q.ram := by
  unfold Queue.acquireRead; split <;> rfl
@[simp] theorem Queue.acquireRead_wHeld (q : Queue) : q.acquireRead.wHeld = q.wHeld := by
  unfold Queue.acquireRead; split <;> rfl
@[simp] theorem Queue.acquireRead_rHeld (q : Queue) : q.acquireRead.rHeld = true := by
  unfold Queue.acquireRead; split <;> rfl
@[simp] theorem Queue.releaseWrite_slots (g : QueueParams) (q : Queue) : (q.releaseWrite g).slots = q.slots := by
  unfold Queue.releaseWrite; split <;> rfl
@[simp] theorem Queue.releaseWrite_ram (g : QueueParams) (q : Queue) : (q.releaseWrite g).ram = q.ram := by
  unfold Queue.releaseWrite; split <;> rfl
@[simp] theorem Queue.releaseWrite_wHeld (g : QueueParams) (q : Queue) : (q.releaseWrite g).wHeld = false := by
  unfold Queue.releaseWrite; split <;> rfl
@[simp] theorem Queue.releaseWrite_rHeld (g : QueueParams) (q : Queue) : (q.releaseWrite g).rHeld = q.rHeld := by
  unfold Queue.releaseWrite; split <;> rfl
@[simp] theorem Queue.freeReadSlot_slots (g : QueueParams) (q : Queue) : (q.freeReadSlot g).slots = q.slots := by
  unfold Queue.freeReadSlot; split <;> rfl
@[simp] theorem Queue.freeReadSlot_ram (g : QueueParams) (q : Queue) : (q.freeReadSlot g).ram = q.ram := by
  unfold Queue.freeReadSlot; split <;> rfl
@[simp] theorem Queue.freeReadSlot_wHeld (g : QueueParams) (q : Queue) : (q.freeReadSlot g).wHeld = q.wHeld := by
  unfold Queue.freeReadSlot; split <;> rfl
@[simp] theorem Queue.freeReadSlot_rHeld (g : QueueParams) (q : Queue) : (q.freeReadSlot g).rHeld = false := by
  unfold Queue.freeReadSlot; split <;> rfl
/-- RELR takes the values of the recycled slot's bytes and of no other (R30, R76). -/
theorem Queue.releaseRead_read (g : QueueParams) (q : Queue) (a : Nat) :
    (q.releaseRead g).ram.read a =
      if q.readSlot g * g.cap ≤ a ∧ a < q.readSlot g * g.cap + g.cap then none else q.ram.read a := by
  simp only [Queue.releaseRead, Queue.freeReadSlot_ram, cbReset_read]
/-- RELR keeps the canonical form of the slot RAM. -/
theorem Queue.releaseRead_wf (g : QueueParams) (q : Queue) (h : q.ram.wf) : (q.releaseRead g).ram.wf := by
  simp only [Queue.releaseRead, Queue.freeReadSlot_ram]
  exact Memory.forget_wf _ _ _ h
@[simp] theorem Queue.releaseRead_slots (g : QueueParams) (q : Queue) :
    (q.releaseRead g).slots = q.slots.set (q.readSlot g) Slot.empty := by
  simp [Queue.releaseRead]
@[simp] theorem Queue.releaseRead_wHeld (g : QueueParams) (q : Queue) : (q.releaseRead g).wHeld = q.wHeld := by
  simp [Queue.releaseRead]
@[simp] theorem Queue.releaseRead_rHeld (g : QueueParams) (q : Queue) : (q.releaseRead g).rHeld = false := by
  simp [Queue.releaseRead]
@[simp] theorem Queue.syncR2W_slots (g : QueueParams) (d : Nat) (q : Queue) : (q.syncR2W g d).slots = q.slots := by
  unfold Queue.syncR2W; split <;> rfl
@[simp] theorem Queue.syncR2W_ram (g : QueueParams) (d : Nat) (q : Queue) : (q.syncR2W g d).ram = q.ram := by
  unfold Queue.syncR2W; split <;> rfl
@[simp] theorem Queue.syncR2W_wHeld (g : QueueParams) (d : Nat) (q : Queue) : (q.syncR2W g d).wHeld = q.wHeld := by
  unfold Queue.syncR2W; split <;> rfl
@[simp] theorem Queue.syncR2W_rHeld (g : QueueParams) (d : Nat) (q : Queue) : (q.syncR2W g d).rHeld = q.rHeld := by
  unfold Queue.syncR2W; split <;> rfl
@[simp] theorem Queue.syncW2R_slots (g : QueueParams) (d : Nat) (q : Queue) : (q.syncW2R g d).slots = q.slots := by
  unfold Queue.syncW2R; split <;> rfl
@[simp] theorem Queue.syncW2R_ram (g : QueueParams) (d : Nat) (q : Queue) : (q.syncW2R g d).ram = q.ram := by
  unfold Queue.syncW2R; split <;> rfl
@[simp] theorem Queue.syncW2R_wHeld (g : QueueParams) (d : Nat) (q : Queue) : (q.syncW2R g d).wHeld = q.wHeld := by
  unfold Queue.syncW2R; split <;> rfl
@[simp] theorem Queue.syncW2R_rHeld (g : QueueParams) (d : Nat) (q : Queue) : (q.syncW2R g d).rHeld = q.rHeld := by
  unfold Queue.syncW2R; split <;> rfl

/-- A pointer distance is below 2N (R82). -/
theorem pointerDistance_lt (g : QueueParams) (p q : Count) (h : 1 ≤ g.n) : pointerDistance g p q < 2 * g.n :=
  Nat.mod_lt _ (by omega)

/-- A pointer distance is the integer difference mod 2N (R82). -/
theorem pointerDistance_int (g : QueueParams) (p q : Count) (h : 1 ≤ g.n) :
    (pointerDistance g p q : Int) = ((p.toNat : Int) - (q.toNat : Int)) % (2 * (g.n : Int)) := by
  have hq := Nat.mod_lt q.toNat (show 0 < 2 * g.n by omega)
  have hd := Nat.div_add_mod q.toNat (2 * g.n)
  unfold pointerDistance
  rw [Int.natCast_mod, Nat.cast_sub (by omega)]
  push_cast
  have : ((p.toNat : Int) - q.toNat) =
      ((p.toNat : Int) + 2 * g.n - (q.toNat : Int) % (2 * g.n)) + (2 * (g.n : Int)) * (- ((q.toNat : Int) / (2 * g.n)) - 1) := by
    have := Int.mul_ediv_add_emod (q.toNat : Int) (2 * g.n)
    linarith
  rw [this, Int.add_mul_emod_self_left]

/-- With no slot held for writing, an acquire of one is available exactly where its view is positive (R82, R84). -/
theorem Queue.canAcquireWrite_iff_view (g : QueueParams) (q : Queue) (p : GrayPointers) (h : q.arbiter = .grayCdc p) :
    q.canAcquireWrite g = true ↔ 0 < p.semWView g false := by
  simp [Queue.canAcquireWrite, h, GrayPointers.semWView]

/-- With no slot held for reading, an acquire of one is available exactly where its view is positive (R82, R84). -/
theorem Queue.canAcquireRead_iff_view (g : QueueParams) (q : Queue) (p : GrayPointers) (h : q.arbiter = .grayCdc p) :
    q.canAcquireRead g = true ↔ 0 < p.semRView g false := by
  simp [Queue.canAcquireRead, h, GrayPointers.semRView, Nat.pos_iff_ne_zero]

/-- A pointer advanced mod 2N fits its bits (R25, R82). -/
theorem pointerAdvance_toNat (g : QueueParams) (p : Count) (d : Nat) (h1 : 1 ≤ g.n) (h2 : g.n ≤ 256) :
    (pointerAdvance g p d).toNat = (p.toNat + d) % (2 * g.n) := by
  have := Nat.mod_lt (p.toNat + d) (show 0 < 2 * g.n by omega)
  simp only [pointerAdvance, BitVec.toNat_ofNat]
  exact Nat.mod_eq_of_lt (by omega)

/-- A slot index advanced mod N fits its byte (R3, R69). -/
theorem nextIndex_toNat (g : QueueParams) (i : Byte) (h1 : 1 ≤ g.n) (h2 : g.n ≤ 256) :
    (nextIndex g i).toNat = (i.toNat + 1) % g.n := by
  have := Nat.mod_lt (i.toNat + 1) (show 0 < g.n by omega)
  simp only [nextIndex, BitVec.toNat_ofNat]
  exact Nat.mod_eq_of_lt (by omega)

/-- Everything a SYNC step can do to a copy (R86). -/
theorem syncPointer_cases (g : QueueParams) (source copy : Count) (d : Nat) :
    (1 ≤ d ∧ d ≤ pointerDistance g source copy ∧ syncPointer g source copy d = pointerAdvance g copy d) ∨
      (¬ (1 ≤ d ∧ d ≤ pointerDistance g source copy) ∧ syncPointer g source copy d = copy) := by
  unfold syncPointer
  split
  · exact .inl ⟨(‹_ ∧ _›).1, (‹_ ∧ _›).2, rfl⟩
  · exact .inr ⟨‹_›, rfl⟩

/-- What a configuration guarantees of each instance (R3, R4, R5). -/
theorem Config.queue_range (c : Config) (x : QueueId) :
    1 ≤ (c.queue x).n ∧ (c.queue x).n ≤ 256 ∧ 1 ≤ (c.queue x).cap ∧ (c.queue x).cap ≤ 65535 := by
  have h := c.legal
  simp only [Params.wellFormed, QueueParams.wellFormed, QueueParams.legalSlots, QueueParams.legalCapacity,
    Bool.and_eq_true, decide_eq_true_eq] at h
  cases x <;> simp only [Config.queue] <;> omega

/-- The largest frame record fits a slot of A (R5). -/
theorem Config.queueA_capacity (c : Config) : 252 ≤ c.a.cap := by
  have h := c.legal
  simp only [Params.wellFormed, Bool.and_eq_true, decide_eq_true_eq] at h
  exact h.2

end Sys2Proof.Machine
end

