-- ==== Sys2Proof/Laws/FrameParser.lean ====
section
/-! SUPPORT. What one input byte can do to the parser (R92 to R98), said once. -/

namespace Sys2Proof.Machine

/-- The length fields of rule R101's table. -/
theorem FramingError.length_values :
    FramingError.badPreamble1.length = 0xFFFF ∧ FramingError.badPreamble2.length = 0xFFFE ∧
      FramingError.badPreamble3.length = 0xFFFD ∧ FramingError.badSize.length = 0xFFFC ∧
      FramingError.checksumMismatch.length = 0xFFFB := by decide

/-- Everything the CollectPayload rule can do (R97). -/
theorem inputCollectPayload_ok (b : Byte) (p t : Parser) (h : inputCollectPayload b p = .ok t) :
    p.idx.toNat < payloadSize ∧ t.data = p.data.write p.idx.toNat b ∧ t.idx = BitVec.ofNat 8 (p.idx.toNat + 1) ∧
      t.csum = p.csum ^^^ b ∧ t.plen = p.plen ∧
      ((p.idx.toNat + 1 + headerSize ≠ p.plen.toNat ∧ t.st = p.st ∧ t.pend = p.pend ∧ t.pendLen = p.pendLen) ∨
       (p.idx.toNat + 1 + headerSize = p.plen.toNat ∧ t.st = .awaitPreamble1 ∧ t.pend = true ∧
        t.pendLen = if p.csum ^^^ b = 0 then zext16 p.plen else FramingError.checksumMismatch.length)) := by
  unfold inputCollectPayload at h
  cases hw : payloadWrite p.data p.idx.toNat b with
  | error f => simp [hw] at h
  | ok d =>
    obtain ⟨hi, rfl⟩ := (payloadWrite_ok _ _ _ _).mp hw
    simp only [hw] at h
    split at h
    · cases h
      exact ⟨hi, rfl, rfl, rfl, rfl, .inr ⟨‹_›, rfl, rfl, rfl⟩⟩
    · cases h
      exact ⟨hi, rfl, rfl, rfl, rfl, .inl ⟨‹_›, rfl, rfl, rfl⟩⟩

/-- Outside CollectPayload an input byte never stops the model, and it leaves the payload buffer alone, but where an attempt
begins to collect: there no byte holds a value (R30, R96). -/
theorem Parser.input_data (b : Byte) (p : Parser) (h : p.st ≠ .collectPayload) :
    ∃ t, p.input b = .ok t ∧ (t.data = p.data ∨ (p.st = .awaitLength ∧ t.st = .collectPayload ∧ t.idx = 0 ∧ t.data = [])) := by
  unfold Parser.input
  cases hs : p.st with
  | awaitPreamble1 => exact ⟨_, rfl, .inl (by unfold inputAwaitPreamble1; split <;> rfl)⟩
  | awaitPreamble2 => exact ⟨_, rfl, .inl (by unfold inputAwaitPreamble2; split <;> rfl)⟩
  | awaitPreamble3 => exact ⟨_, rfl, .inl (by unfold inputAwaitPreamble3; split <;> rfl)⟩
  | awaitCommand => exact ⟨_, rfl, .inl rfl⟩
  | awaitLength =>
    refine ⟨_, rfl, ?_⟩
    unfold inputAwaitLength
    split
    · exact .inr ⟨rfl, rfl, rfl, rfl⟩
    · exact .inl rfl
  | collectPayload => exact absurd hs h
  | errorRecovery => exact ⟨_, rfl, .inl (by unfold inputErrorRecovery; split <;> rfl)⟩

end Sys2Proof.Machine
end

