-- ==== Sys2Proof/Laws/Emission.lean ====
section
/-! SUPPORT. What EMIT and SYNC can do (R86, R100), said once. -/

namespace Sys2Proof.Machine

/-- The bytes EMIT reads are the buffer's (R100, R101). -/
theorem readPayload_ok (m : Memory) (k n : Nat) (l : List Byte) (h : readPayload m k n = .ok l) :
    l.length = n ∧ ∀ i, (hi : i < l.length) → m.read (k + i) = some l[i] := by
  induction n generalizing k l with
  | zero =>
    simp only [readPayload, Except.ok.injEq] at h
    subst h
    simp
  | succ n ih =>
    simp only [readPayload] at h
    cases hr : payloadRead m k with
    | error f => simp [hr] at h
    | ok v =>
      cases hq : readPayload m (k + 1) n with
      | error f => simp [hr, hq] at h
      | ok rest =>
        simp only [hr, hq, Except.ok.injEq] at h
        subst h
        obtain ⟨hl, hb⟩ := ih (k + 1) rest hq
        refine ⟨by simp [hl], fun i hi => ?_⟩
        cases i with
        | zero => exact ((payloadRead_ok m k v).mp hr).2
        | succ i =>
          have := hb i (by simpa using hi)
          simpa [Nat.add_comm, Nat.add_left_comm] using this

/-- Everything EMIT can do if it answers a next state (R100). -/
theorem emitStep_next (s t : State) (h : emitStep s = .next t) :
    (s.emitEnabled = false ∧ t = s) ∨
    (s.emitEnabled = true ∧ ∃ bytes sts q, record s.parser.pendLen s.parser.data = .ok bytes ∧
      cbWriteBlock s.cfg.a (s.queueA.writeSlot s.cfg.a) bytes s.queueA = .ok (sts, q) ∧
      t = { s with queueA := q.acquireWrite.releaseWrite s.cfg.a, parser := { s.parser with pend := false } }) := by
  unfold emitStep at h
  cases he : s.emitEnabled with
  | false => simp only [he] at h; exact .inl ⟨rfl, by simpa using h.symm⟩
  | true =>
    simp only [he, if_true] at h
    cases hr : record s.parser.pendLen s.parser.data with
    | error f => simp [hr] at h
    | ok bytes =>
      simp only [hr] at h
      cases hw : cbWriteBlock s.cfg.a (s.queueA.writeSlot s.cfg.a) bytes s.queueA with
      | error f => simp [hw] at h
      | ok r =>
        obtain ⟨sts, q⟩ := r
        simp only [hw] at h
        exact .inr ⟨rfl, bytes, sts, q, rfl, hw, by simpa using h.symm⟩

/-- EMIT is never refused. -/
theorem emitStep_not_refused (s : State) (r : Refusal) : emitStep s ≠ .refused r := by
  unfold emitStep
  split
  · split
    · simp
    · split <;> simp
  · simp

@[simp] theorem syncR2WStep_cfg (x : QueueId) (d : Nat) (s : State) : (syncR2WStep x d s).cfg = s.cfg := by
  unfold syncR2WStep; split <;> simp
@[simp] theorem syncW2RStep_cfg (x : QueueId) (d : Nat) (s : State) : (syncW2RStep x d s).cfg = s.cfg := by
  unfold syncW2RStep; split <;> simp
@[simp] theorem syncR2WStep_parser (x : QueueId) (d : Nat) (s : State) : (syncR2WStep x d s).parser = s.parser := by
  unfold syncR2WStep; split <;> simp
@[simp] theorem syncW2RStep_parser (x : QueueId) (d : Nat) (s : State) : (syncW2RStep x d s).parser = s.parser := by
  unfold syncW2RStep; split <;> simp
@[simp] theorem syncR2WStep_port (x : QueueId) (d : Nat) (s : State) (p : Port) : (syncR2WStep x d s).port p = s.port p := by
  unfold syncR2WStep; split <;> simp
@[simp] theorem syncW2RStep_port (x : QueueId) (d : Nat) (s : State) (p : Port) : (syncW2RStep x d s).port p = s.port p := by
  unfold syncW2RStep; split <;> simp
@[simp] theorem syncR2WStep_halted (x : QueueId) (d : Nat) (s : State) : (syncR2WStep x d s).halted = s.halted := by
  unfold syncR2WStep; split <;> simp
@[simp] theorem syncW2RStep_halted (x : QueueId) (d : Nat) (s : State) : (syncW2RStep x d s).halted = s.halted := by
  unfold syncW2RStep; split <;> simp

end Sys2Proof.Machine
end

