-- ==== Sys2Proof/Laws/PerInstr.lean ====
section
/-! SUPPORT. Statements made for every constructor of `Instr`, one lemma each: the encoded word lies under the match and
mask columns of rule R50. -/

namespace Sys2Proof.Laws.EncodingTable

/-- The "match" column of rule R50. -/
def matchWord (i : Instr) : Word :=
  match i with
  | .acqw => 0x1000
  | .relw => 0x2000
  | .addb _ => 0x3000
  | .wfull => 0x4000
  | .wempty => 0x5000
  | .acqwt => 0x6000
  | .acqr => 0x8000
  | .relr => 0x9000
  | .remb => 0xA000
  | .peek => 0xB000
  | .rfull => 0xC000
  | .rempty => 0xD000
  | .pbyte _ => 0xE000

/-- The "mask" column of rule R50. -/
def maskWord (i : Instr) : Word :=
  match i with
  | .addb _ => 0xFF00
  | .pbyte _ => 0xFF00
  | _ => 0xFFFF

/-- `CMD & mask = match` for the encoded command. -/
def Statement (i : Instr) : Prop := encode i &&& maskWord i = matchWord i

theorem acqw : Statement .acqw := by unfold Statement; decide
theorem relw : Statement .relw := by unfold Statement; decide
theorem addb (b : Byte) : Statement (.addb b) := by revert b; unfold Statement; decide
theorem wfull : Statement .wfull := by unfold Statement; decide
theorem wempty : Statement .wempty := by unfold Statement; decide
theorem acqwt : Statement .acqwt := by unfold Statement; decide
theorem acqr : Statement .acqr := by unfold Statement; decide
theorem relr : Statement .relr := by unfold Statement; decide
theorem remb : Statement .remb := by unfold Statement; decide
theorem peek : Statement .peek := by unfold Statement; decide
theorem rfull : Statement .rfull := by unfold Statement; decide
theorem rempty : Statement .rempty := by unfold Statement; decide
theorem pbyte (b : Byte) : Statement (.pbyte b) := by revert b; unfold Statement; decide

end Sys2Proof.Laws.EncodingTable
end

