-- ==== Sys2Proof/Laws/Schedule.lean ====
section
/-! SUPPORT. What a command's turn and an event can do, said once (R36, R37, R67, R74, R90). -/

namespace Sys2Proof.Machine

/-- Every meaning is its command's rule within the frame of R106. -/
theorem exec_is_command (i : Instr) (s : State) : ∃ a, exec i s = command i s a := by
  cases i <;> exact ⟨_, rfl⟩

/-- No command is refused: every one has a meaning. -/
theorem exec_not_refused (i : Instr) (s : State) (r : Refusal) : exec i s ≠ .refused r := by
  obtain ⟨a, ha⟩ := exec_is_command i s
  rw [ha]
  exact command_not_refused i s a r

/-- Everything a turn can be: no command, a decoded command, or an illegal word. -/
theorem dispatch_cases (s : State) :
    ((s.port s.turn.port).cmd = none ∧ dispatch s = .next s) ∨
    (∃ w i, (s.port s.turn.port).cmd = some w ∧ decode w = .ok i ∧ dispatch s = exec i s) ∨
    (∃ w e, (s.port s.turn.port).cmd = some w ∧ decode w = .error e ∧ dispatch s = illegalStep w s) := by
  unfold dispatch
  cases hc : (s.port s.turn.port).cmd with
  | none => exact .inl ⟨rfl, rfl⟩
  | some w =>
    cases hd : decode w with
    | ok i => exact .inr (.inl ⟨w, i, rfl, hd, by simp [hd]⟩)
    | error e => exact .inr (.inr ⟨w, e, rfl, hd, by simp [hd]⟩)

/-- Only a present event on a busy port is refused (I18). -/
theorem runEvent_refused (e : Event) (s : State) (r : Refusal) (h : runEvent e s = .refused r) :
    ∃ p w, e = .present p w ∧ (s.port p).cmd ≠ none ∧ r = .portBusy p := by
  cases e with
  | turn p timeout =>
    simp only [runEvent] at h
    rcases dispatch_cases { s with turn := { port := p, timeout := timeout } } with ⟨-, hd⟩ | ⟨w, i, -, -, hd⟩ | ⟨w, e, -, -, hd⟩
    · rw [hd] at h; cases h
    · rw [hd] at h; exact absurd h (exec_not_refused _ _ _)
    · rw [hd] at h
      unfold illegalStep at h
      split at h <;> cases h
  | emit => exact absurd h (emitStep_not_refused s r)
  | syncR2W x d => cases h
  | syncW2R x d => cases h
  | present p w =>
    simp only [runEvent, presentCommand] at h
    cases hc : (s.port p).cmd with
    | none => simp [hc] at h
    | some w' =>
      simp only [hc, Host.Outcome.refused.injEq] at h
      exact ⟨p, w, rfl, by simp [hc], h.symm⟩
  | reset => cases h

/-- `step` is `runEvent` of the next event. -/
theorem step_eq (s : State) : step s = runEvent s.nextEvent s.advance := rfl

end Sys2Proof.Machine
end

