-- ==== Sys2Proof/Tests/Slice0.lean ====
section
/-! SUPPORT. Tests on fixed values, their results taken from 95_test_vectors.md and the encodings of rule R50, and the
witnesses: for every statement with hypotheses, a concrete state that meets them. -/

namespace Sys2Proof.Tests

open Sys2Proof.Machine

/-! ## Well-formedness: each check refuses an ill-formed term (R3 to R7, R10, R55) -/

/-- The parameters of the vectors. -/
def goodParams : Params :=
  { a := { n := 4, cap := 252, arbiter := .semaphore }, b := { n := 2, cap := 4, arbiter := .grayCdc }, timedAcquire := true }

/-- The vectors' parameters with another instance B. -/
def withB (b : QueueParams) : Params := { goodParams with b := b }

theorem test_wellFormed_good : goodParams.wellFormed = true := by decide
theorem test_wellFormed_no_slots : (withB { n := 0, cap := 4, arbiter := .semaphore }).wellFormed = false := by decide
theorem test_wellFormed_257_slots : (withB { n := 257, cap := 4, arbiter := .semaphore }).wellFormed = false := by decide
theorem test_wellFormed_256_slots : (withB { n := 256, cap := 4, arbiter := .grayCdc }).wellFormed = true := by decide
theorem test_wellFormed_no_capacity : (withB { n := 2, cap := 0, arbiter := .semaphore }).wellFormed = false := by decide
theorem test_wellFormed_capacity_65536 : (withB { n := 2, cap := 65536, arbiter := .semaphore }).wellFormed = false := by decide
theorem test_wellFormed_gray_three_slots : (withB { n := 3, cap := 4, arbiter := .grayCdc }).wellFormed = false := by decide
theorem test_wellFormed_capacity_a :
    ({ goodParams with a := { n := 4, cap := 251, arbiter := .semaphore } } : Params).wellFormed = false := by decide
theorem test_build_refuses : Config.build (withB { n := 0, cap := 4, arbiter := .semaphore }) = none := by decide
theorem test_line_wrong_port : Line.wellFormed { port := .ca, op := .command (.addb 0x41) } = false := by decide
theorem test_line_wblk_port : Line.wellFormed { port := .cb, op := .wblk [0x41] } = false := by decide
theorem test_line_rblk_port : Line.wellFormed { port := .pb, op := .rblk 2 } = false := by decide
theorem test_legalOn_acqwt : legalOn false .pb .acqwt = false ∧ legalOn true .pb .acqwt = true := by decide

/-! ## Decoding: words written out bit by bit from rule R50 -/

theorem test_decode_acqw : decode 0b0001000000000000#16 = .ok .acqw := by decide
theorem test_decode_relw : decode 0b0010000000000000#16 = .ok .relw := by decide
theorem test_decode_addb : decode 0b0011000001000001#16 = .ok (.addb 0x41) := by decide
theorem test_decode_addb_top : decode 0b0011000011111111#16 = .ok (.addb 255) := by decide
theorem test_decode_wfull : decode 0b0100000000000000#16 = .ok .wfull := by decide
theorem test_decode_wempty : decode 0b0101000000000000#16 = .ok .wempty := by decide
theorem test_decode_acqwt : decode 0b0110000000000000#16 = .ok .acqwt := by decide
theorem test_decode_acqr : decode 0b1000000000000000#16 = .ok .acqr := by decide
theorem test_decode_relr : decode 0b1001000000000000#16 = .ok .relr := by decide
theorem test_decode_remb : decode 0b1010000000000000#16 = .ok .remb := by decide
theorem test_decode_peek : decode 0b1011000000000000#16 = .ok .peek := by decide
theorem test_decode_rfull : decode 0b1100000000000000#16 = .ok .rfull := by decide
theorem test_decode_rempty : decode 0b1101000000000000#16 = .ok .rempty := by decide
theorem test_decode_pbyte : decode 0b1110000000000011#16 = .ok (.pbyte 0x03) := by decide
theorem test_decode_pbyte_top : decode 0b1110000011111111#16 = .ok (.pbyte 0xFF) := by decide

/-- EN-11 to EN-14. -/
theorem test_decode_illegal :
    decode 0x8001 = .error .nonzeroD ∧ decode 0x8100 = .error .nonzeroZ ∧ decode 0x0000 = .error .reservedOpcode ∧
      decode 0x7000 = .error .reservedOpcode ∧ decode 0xF000 = .error .reservedOpcode ∧ decode 0xF123 = .error .nonzeroZ ∧
      decode 0xE100 = .error .nonzeroZ := by decide

/-- EN-9, EN-10, EN-15, EN-6. -/
theorem test_legal_word :
    legalWord false .i 0xE0FF = true ∧ legalWord false .ca 0x3041 = false ∧ legalWord false .i 0x1000 = false ∧
      legalWord false .pb 0x6000 = false ∧ legalWord true .pb 0x6000 = true := by decide

theorem test_encode : encode (.addb 0x41) = 0x3041 ∧ encode .rempty = 0xD000 ∧ encode (.pbyte 0x03) = 0xE003 := by decide
theorem test_decodeTableWord :
    decodeTableWord 16 0x9000 = some .relr ∧ decodeTableWord 16 0x9001 = none ∧ decodeTableWord 24 0x9000 = none := by decide

/-- The examples of rule R55. -/
theorem test_parse_command :
    (parseLine "PB: ADDB 0x41".toList).map Line.words = some [0x3041] ∧
      (parseLine "PB: ADDB 255".toList).map Line.words = some [0x30FF] ∧
      parseLine "CA: ACQR".toList = some { port := .ca, op := .command .acqr } := by decide

/-- EN-7, EN-8, and lines that R55 does not allow. -/
theorem test_parse_block :
    (parseLine "PB: WBLK 0x41, 0x42".toList).map Line.words = some [0x3041, 0x3042] ∧
      (parseLine "CB: RBLK 3".toList).map Line.words = some [0xA000, 0xA000, 0xA000] ∧
      parseLine "PB: ADDB".toList = none ∧ parseLine "PB: ADDB 256".toList = none ∧
      parseLine "PB: ACQW 1".toList = none := by decide

/-- The response words of 95_test_vectors.md section 2. -/
theorem test_response_words :
    responseWord .ok 0x41 = 0x0041 ∧ responseWord .full 0 = 0x0100 ∧ responseWord .empty 0 = 0x0200 ∧
      responseWord .timeout 0 = 0x0300 := by decide

/-! ## States to test on -/

/-- N_A = N_B = 2, CAP_A = 252, CAP_B = 4. -/
def cfgOf (k : ArbiterKind) (timed : Bool) : Config :=
  { a := { n := 2, cap := 252, arbiter := k }, b := { n := 2, cap := 4, arbiter := k }, timedAcquire := timed,
    legal := by cases k <;> cases timed <;> decide }

/-- Slot 0 is filled, slot 1 is the write slot; held for writing and reading as `w` and `r` say. -/
def arbiterOf (k : ArbiterKind) (w r : Bool) : Arbiter :=
  match k with
  | .semaphore => .semaphore { wIdx := 1, rIdx := 0, semW := if w then 0 else 1, semR := if r then 0 else 1 }
  | .grayCdc => .grayCdc { wPtr := 1, rPtr := 0, rPtrSyncW := 0, wPtrSyncR := 1 }

/-- B: slot 0 holds 41 42 across the wrap of its cursors; slot 1, if held for writing, holds 51. -/
def queueBOf (k : ArbiterKind) (w r : Bool) : Queue :=
  { slots := [{ rd := 3, wr := 1, cnt := 2 }, if w then { rd := 0, wr := 1, cnt := 1 } else Slot.empty],
    arbiter := arbiterOf k w r, wHeld := w, rHeld := r, ram := [(0, 0x42), (3, 0x41), (4, 0x51)] }

/-- A: slot 0 holds the error record FF FE. -/
def queueAOf (k : ArbiterKind) (r : Bool) : Queue :=
  { slots := [{ rd := 0, wr := 2, cnt := 2 }, Slot.empty], arbiter := arbiterOf k false r, wHeld := false, rHeld := r,
    ram := [(0, 0xFF), (1, 0xFE)] }

/-- B, or A, with both slots filled and none held. -/
def fullArbiter (k : ArbiterKind) : Arbiter :=
  match k with
  | .semaphore => .semaphore { wIdx := 0, rIdx := 0, semW := 0, semR := 2 }
  | .grayCdc => .grayCdc { wPtr := 2, rPtr := 0, rPtrSyncW := 0, wPtrSyncR := 1 }

/-- A parser in the middle of a payload. -/
def collecting : Parser :=
  { st := .collectPayload, csum := 0x24, plen := 8, idx := 1, data := [(0, 0x61)], pend := false, pendLen := 0 }

/-- A parser with a success frame of one payload byte pending. -/
def pending : Parser :=
  { st := .awaitPreamble1, csum := 0, plen := 6, idx := 1, data := [(0, 0x61)], pend := true, pendLen := 6 }

/-- A busy block in which port `p` has the turn. -/
def busy (k : ArbiterKind) (timed w r : Bool) (p : Port) : State :=
  { State.resetWith (cfgOf k timed) with
    parser := collecting, queueA := queueAOf k r, queueB := queueBOf k w r, turn := { port := p, timeout := false } }

/-- The response an outcome leaves on port `p`. -/
def rspOf (p : Port) (o : Host.Outcome State Fault Refusal) : Option Word :=
  match o with
  | .next t => (t.port p).rsp
  | .fault _ => none
  | .refused _ => none

/-- FAULT and FCMD of an outcome. -/
def faultOf (o : Host.Outcome State Fault Refusal) : Option (Word × Word) :=
  match o with
  | .next t => some (t.fault, t.fcmd)
  | .fault _ => none
  | .refused _ => none

/-- The next state of an outcome. -/
def nextOf (o : Host.Outcome State Fault Refusal) : Option State :=
  match o with
  | .next t => some t
  | .fault _ => none
  | .refused _ => none

/-- The refusal of an outcome. -/
def refusalOf (o : Host.Outcome State Fault Refusal) : Option Refusal :=
  match o with
  | .next _ => none
  | .fault _ => none
  | .refused r => some r

/-- Queue B of an outcome. -/
def queueBAfter (o : Host.Outcome State Fault Refusal) : Option Queue :=
  match o with
  | .next t => some t.queueB
  | .fault _ => none
  | .refused _ => none

/-- The parser of an outcome. -/
def parserAfter (o : Host.Outcome State Fault Refusal) : Option Parser :=
  match o with
  | .next t => some t.parser
  | .fault _ => none
  | .refused _ => none

/-- The block right after reset, with port `p`'s turn. -/
def fresh (p : Port) : State :=
  { State.resetWith (cfgOf .semaphore false) with turn := { port := p, timeout := false } }

/-! ## One step of each command -/

/-- QP-1. -/
theorem test_acqw : (queueBAfter (exec .acqw (fresh .pb))).map (fun q => (q.arbiter, q.wHeld)) =
    some (.semaphore { wIdx := 0, rIdx := 0, semW := 1, semR := 0 }, true) := by decide
/-- QP-2. -/
theorem test_acqw_held : faultOf (exec .acqw (busy .semaphore false true true .pb)) = some (0xB001, 0x1000) := by decide
/-- QP-18: `wIdx` wraps. -/
theorem test_relw : (queueBAfter (exec .relw (busy .semaphore false true true .pb))).map (fun q => (q.arbiter, q.wHeld)) =
    some (.semaphore { wIdx := 0, rIdx := 0, semW := 0, semR := 1 }, false) := by decide
/-- QP-4. -/
theorem test_relw_not_held : faultOf (exec .relw (fresh .pb)) = some (0xB002, 0x2000) := by decide
/-- R62: the byte goes to the write cursor of the held slot. -/
theorem test_addb : (queueBAfter (exec (.addb 0x52) (busy .semaphore false true true .pb))).map (fun q => (q.slot 1, q.ram)) =
    some ({ rd := 0, wr := 2, cnt := 2 }, [(0, 0x42), (3, 0x41), (4, 0x51), (5, 0x52)]) := by decide
/-- QP-12. -/
theorem test_addb_not_held : faultOf (exec (.addb 0x41) (fresh .pb)) = some (0xB003, 0x3041) := by decide
/-- R71: one byte of four. -/
theorem test_wfull : rspOf .pb (exec .wfull (busy .semaphore false true true .pb)) = some 0x0000 := by decide
/-- QP-13. -/
theorem test_wfull_not_held : faultOf (exec .wfull (fresh .pb)) = some (0xB003, 0x4000) := by decide
/-- QP-11. -/
theorem test_wempty : rspOf .pb (exec .wempty (busy .semaphore false true true .pb)) = some 0x0000 := by decide
/-- QP-13. -/
theorem test_wempty_not_held : faultOf (exec .wempty (fresh .pb)) = some (0xB003, 0x5000) := by decide
/-- QP-14. -/
theorem test_acqwt_absent : faultOf (exec .acqwt (fresh .pb)) = some (0xB007, 0x6000) := by decide
/-- QP-16: the draw TIMEOUT. -/
theorem test_acqwt_timeout : rspOf .pb (exec .acqwt
    { busy .semaphore true false true .pb with
      queueB := { queueBOf .semaphore false true with
        arbiter := .semaphore { wIdx := 1, rIdx := 0, semW := 0, semR := 1 } },
      turn := { port := .pb, timeout := true } }) = some 0x0300 := by decide
/-- QC-1: a hold leaves the block as it is. -/
theorem test_acqr_hold : nextOf (exec .acqr (fresh .cb)) = some (fresh .cb) := by decide
/-- QC-3. -/
theorem test_acqr_held : faultOf (exec .acqr (busy .semaphore false true true .cb)) = some (0xC004, 0x8000) := by decide
/-- QC-7: the slot is empty; its bytes hold no value any more (R30), those of the other slot stay. -/
theorem test_relr : (queueBAfter (exec .relr (busy .semaphore false true true .cb))).map (fun q => (q.slot 0, q.arbiter, q.ram)) =
    some ({ rd := 0, wr := 0, cnt := 0 }, .semaphore { wIdx := 1, rIdx := 1, semW := 1, semR := 0 },
      [(4, 0x51)]) := by decide
/-- FA-1. -/
theorem test_relr_not_held : faultOf (exec .relr (fresh .cb)) = some (0xC005, 0x9000) := by decide
/-- R63: the read cursor wraps (CB-1 step 10). -/
theorem test_remb : (queueBAfter (exec .remb (busy .semaphore false true true .cb))).map (fun q => q.slot 0) =
    some { rd := 0, wr := 1, cnt := 1 } ∧ rspOf .cb (exec .remb (busy .semaphore false true true .cb)) = some 0x0041 := by decide
/-- QC-5. -/
theorem test_remb_not_held : faultOf (exec .remb (fresh .ca)) = some (0xA006, 0xA000) := by decide
/-- QC-8. -/
theorem test_peek : rspOf .cb (exec .peek (busy .semaphore false true true .cb)) = some 0x0041 := by decide
/-- QC-6. -/
theorem test_peek_not_held : faultOf (exec .peek (fresh .cb)) = some (0xC006, 0xB000) := by decide
/-- PR-3 line 22, the shape of it: two bytes of 252. -/
theorem test_rfull : rspOf .ca (exec .rfull (busy .semaphore false true true .ca)) = some 0x0000 := by decide
/-- QC-6. -/
theorem test_rfull_not_held : faultOf (exec .rfull (fresh .cb)) = some (0xC006, 0xC000) := by decide
/-- R80. -/
theorem test_rempty : rspOf .cb (exec .rempty (busy .semaphore false true true .cb)) = some 0x0000 := by decide
/-- QC-6. -/
theorem test_rempty_not_held : faultOf (exec .rempty (fresh .cb)) = some (0xC006, 0xD000) := by decide
/-- P1, b = 02 (R92). -/
theorem test_pbyte_bad : (parserAfter (exec (.pbyte 0x02) (fresh .i))).map (fun p => (p.st, p.pend, p.pendLen)) =
    some (.errorRecovery, true, 0xFFFF) := by decide
/-- LEN `{csum = 43}`, b = 0B (R96). -/
theorem test_pbyte_length : (parserAfter (exec (.pbyte 0x0B)
    { fresh .i with parser := { Parser.reset with st := .awaitLength, csum := 0x43 } })).map
      (fun p => (p.st, p.csum, p.plen, p.idx)) = some (.collectPayload, 0x48, 11, 0) := by decide

/-! ## One step of EMIT, SYNC and the host -/

/-- EM-1. -/
theorem test_emit :
    let before : State :=
      { fresh .i with parser := { Parser.reset with st := .errorRecovery, pend := true, pendLen := 0xFFFF } }
    nextOf (runEvent .emit before) = some { before with
      parser := { before.parser with pend := false },
      queueA := { slots := [{ rd := 0, wr := 2, cnt := 2 }, Slot.empty],
                  arbiter := .semaphore { wIdx := 1, rIdx := 0, semW := 1, semR := 1 }, wHeld := false, rHeld := false,
                  ram := [(0, 0xFF), (1, 0xFF)] } } := by decide

/-- GR-10: from `{3, 1, 1, 1}` both d = 1 and d = 2 are admitted, d = 3 is not. -/
theorem test_sync :
    let g : QueueParams := { n := 2, cap := 4, arbiter := .grayCdc }
    syncPointer g 3 1 1 = 2 ∧ syncPointer g 3 1 2 = 3 ∧ syncPointer g 3 1 3 = 1 := by decide

/-- The derived state at the end of PR-5, `semW_v = 2 − Fw − 0` for rPtrSyncW = 0 and 1, and the views at GR-6. -/
theorem test_views :
    let g : QueueParams := { n := 2, cap := 4, arbiter := .grayCdc }
    let p : GrayPointers := { wPtr := 1, rPtr := 1, rPtrSyncW := 0, wPtrSyncR := 1 }
    p.semWView g false = 1 ∧ { p with rPtrSyncW := 1 }.semWView g false = 2 ∧ p.semRView g false = 0 := by decide

/-- R30: a byte that is not written since the recycle has no value, though it was written before. -/
theorem test_recycled_byte_has_no_value :
    (queueBAfter (exec .relr (busy .semaphore false true true .cb))).map
      (fun q => (q.ram.read 0, q.ram.read 3, q.ram.read 4)) = some (none, none, some 0x51) := by decide

/-- FA-3, FA-5, FA-6, FA-13: an illegal word faults on its port. -/
theorem test_illegal_word :
    faultOf (runEvent (.turn .i false) { fresh .i with portI := { cmd := some 0x1000, rsp := none } }) = some (0x8007, 0x1000) ∧
      faultOf (runEvent (.turn .pb false) { fresh .i with portPB := { cmd := some 0x1001, rsp := none } }) =
        some (0xB007, 0x1001) ∧
      faultOf (runEvent (.turn .cb false) { fresh .i with portCB := { cmd := some 0x0000, rsp := none } }) =
        some (0xC007, 0x0000) ∧
      faultOf (runEvent (.turn .i false) { fresh .i with portI := { cmd := some 0xE100, rsp := none } }) =
        some (0x8007, 0xE100) := by decide

/-- A second command on a busy port is outside the model (I18). -/
theorem test_present_busy :
    refusalOf (runEvent (.present .pb 0x2000) { fresh .i with portPB := { cmd := some 0x1000, rsp := none } }) =
      some (.portBusy .pb) := by decide

/-- `withFetchWord` puts the word where the very next step runs it. -/
theorem test_withFetchWord : rspOf .pb (step (State.reset.withFetchWord 16 0x1000)) = some 0x0000 ∧
    faultOf (step (State.reset.withFetchWord 16 0xA000)) = some (0xA006, 0xA000) := by decide

/-! ## Good states, checked -/

/-- `Queue.Wf` as a check. -/
def checkQueue (g : QueueParams) (q : Queue) : Bool :=
  decide (q.slots.length = g.n) &&
  decide (∀ j < g.n, (q.slot j).cnt.toNat ≤ g.cap ∧ (q.slot j).rd.toNat < g.cap ∧ (q.slot j).wr.toNat < g.cap ∧
    (q.slot j).wr.toNat = ((q.slot j).rd.toNat + (q.slot j).cnt.toNat) % g.cap) &&
  (match q.arbiter with
    | .semaphore c => decide (g.arbiter = .semaphore ∧ c.wIdx.toNat < g.n ∧ c.rIdx.toNat < g.n ∧
        c.semW.toNat + c.semR.toNat + q.wHeld.toNat + q.rHeld.toNat = g.n ∧
        c.wIdx.toNat = (c.rIdx.toNat + (c.semR.toNat + q.rHeld.toNat)) % g.n)
    | .grayCdc p => decide (g.arbiter = .grayCdc ∧
        (p.wPtr.toNat < 2 * g.n ∧ p.rPtr.toNat < 2 * g.n ∧ p.rPtrSyncW.toNat < 2 * g.n ∧ p.wPtrSyncR.toNat < 2 * g.n) ∧
        pointerDistance g p.rPtr p.rPtrSyncW + pointerDistance g p.wPtrSyncR p.rPtr +
          pointerDistance g p.wPtr p.wPtrSyncR + q.wHeld.toNat ≤ g.n ∧
        q.rHeld.toNat ≤ pointerDistance g p.wPtrSyncR p.rPtr)) &&
  decide (∀ i < g.n, q.filled g + q.wHeld.toNat ≤ i → q.slot ((q.readSlot g + i) % g.n) = Slot.empty) &&
  decide (∀ j < g.n, ∀ i < (q.slot j).cnt.toNat, (q.ram.read (q.byteAddr g j i)).isSome = true) &&
  decide q.ram.wf && decide (∀ c ∈ q.ram, c.1 < ramSize g)

theorem checkQueue_wf (g : QueueParams) (q : Queue) (h : checkQueue g q = true) : q.Wf g := by
  simp only [checkQueue, Bool.and_eq_true, decide_eq_true_eq] at h
  obtain ⟨⟨⟨⟨⟨⟨h1, h2⟩, h3⟩, h4⟩, h5⟩, h6⟩, h7⟩ := h
  refine ⟨h1, h2, ?_, h4, h5, h6, h7⟩
  unfold Queue.ArbiterWf
  cases ha : q.arbiter <;> simp only [ha, decide_eq_true_eq] at h3 <;> exact h3

/-- `Parser.Wf` as a check. -/
def checkParser (p : Parser) : Bool :=
  decide (p.plen = 0 ∨ 6 ≤ p.plen.toNat) && decide (p.idx.toNat ≤ payloadSize) &&
  decide (p.st = .collectPayload → 6 ≤ p.plen.toNat ∧ p.idx.toNat + headerSize < p.plen.toNat) &&
  decide (p.st = .collectPayload → ∀ k < p.idx.toNat, (p.data.read k).isSome = true) &&
  decide (p.pend = true → p.st = .awaitPreamble1 ∨ p.st = .errorRecovery) &&
  decide (p.pend = true →
    p.pendLen.toInt ∈ [-1, -2, -3, -4, -5] ∨ (6 ≤ p.pendLen.toInt ∧ p.pendLen.toInt ≤ 255)) &&
  decide (p.pend = true → 0 < p.pendLen.toInt →
    ∀ k < p.pendLen.toNat - headerSize, (p.data.read k).isSome = true) &&
  decide p.data.wf && decide (∀ c ∈ p.data, c.1 < payloadSize)

theorem checkParser_wf (p : Parser) (h : checkParser p = true) : p.Wf := by
  simp only [checkParser, Bool.and_eq_true, decide_eq_true_eq] at h
  obtain ⟨⟨⟨⟨⟨⟨⟨⟨h1, h2⟩, h3⟩, h4⟩, h5⟩, h6⟩, h7⟩, h8⟩, h9⟩ := h
  exact ⟨h1, h2, h3, h4, h5, h6, h7, h8, h9⟩

/-- `State.Inv` as a check, for a state with no fault and no response. -/
def checkState (s : State) : Bool :=
  decide (s.fault = 0 ∧ s.fcmd = 0) && checkParser s.parser && checkQueue s.cfg.a s.queueA &&
  decide (s.queueA.wHeld = false) && checkQueue s.cfg.b s.queueB &&
  decide (s.portI.rsp = none ∧ s.portCA.rsp = none ∧ s.portPB.rsp = none ∧ s.portCB.rsp = none)

theorem checkState_inv (s : State) (h : checkState s = true) : s.Inv := by
  simp only [checkState, Bool.and_eq_true, decide_eq_true_eq] at h
  obtain ⟨⟨⟨⟨⟨h1, h2⟩, h3⟩, h4⟩, h5⟩, hi, hca, hpb, hcb⟩ := h
  refine ⟨.inl h1, checkParser_wf _ h2, checkQueue_wf _ _ h3, h4, checkQueue_wf _ _ h5, fun p => ?_⟩
  have hr : (s.port p).rsp = none := by cases p <;> assumption
  exact ⟨.inr hr, fun r h => by simp [hr] at h⟩

/-- Every busy block is a good state. -/
theorem busy_good (k : ArbiterKind) (timed w r : Bool) (p : Port) : (busy k timed w r p).Inv :=
  checkState_inv _ (by cases k <;> cases timed <;> cases w <;> cases r <;> cases p <;> decide)

/-- A busy block with a frame pending; slot 1 of A is free. -/
def emitting (k : ArbiterKind) : State := { busy k false true true .i with parser := pending }

/-- A block whose queues are full and hold nothing, with a frame pending. -/
def full (k : ArbiterKind) : State :=
  { busy k false false false .pb with
    parser := pending,
    queueA := { queueAOf k false with
      arbiter := fullArbiter k, slots := [{ rd := 0, wr := 2, cnt := 2 }, { rd := 0, wr := 0, cnt := 0 }] },
    queueB := { queueBOf k true false with wHeld := false, arbiter := fullArbiter k } }

theorem emitting_good (k : ArbiterKind) : (emitting k).Inv := checkState_inv _ (by cases k <;> decide)
theorem full_good (k : ArbiterKind) : (full k).Inv := checkState_inv _ (by cases k <;> decide)

/-! ## Witnesses: the hypotheses of each statement, met by concrete states, clause by clause -/

/-- An outcome that answers, from the check. -/
theorem answers (o : Host.Outcome State Fault Refusal) (h : (nextOf o).isSome = true) : ∃ t, o = .next t := by
  cases o with
  | next t => exact ⟨t, rfl⟩
  | fault f => cases h
  | refused r => cases h

/-- A busy block in which port `p` has presented `w`, and then has the turn. -/
def presented (p : Port) (w : Word) : State :=
  { (busy .semaphore false true true p).setPort p { cmd := some w, rsp := none } with tape := [.turn p false] }

/-- A halted block. -/
def halted (p : Port) : State := { busy .semaphore false true true p with fault := 0xB001, fcmd := 0x1000 }

theorem witness_EncodeOfDecodedIsTheWord : decode 0x3041#16 = .ok (.addb 0x41) := by decide

theorem witness_ReservedOpcodesAreIllegalEverywhere :
    ((0x0FFF#16).extractLsb' 12 4).toNat = 0x0 ∧ ((0x7000#16).extractLsb' 12 4).toNat = 0x7 ∧
      ((0xF123#16).extractLsb' 12 4).toNat = 0xF := by decide

theorem witness_StepRunsTheDecodedCommand :
    (presented .pb 0x2000).nextEvent = .turn .pb false ∧ ((presented .pb 0x2000).port .pb).cmd = some 0x2000 ∧
      decode 0x2000 = .ok .relw := by decide

/-- One for each port; on P_B a word that decodes but is not legal without TIMED_ACQUIRE. -/
theorem witness_IllegalWordRaisesIllegalCommand : ∀ x ∈ [(Port.i, 0x1000#16), (.ca, 0x3041), (.pb, 0x6000), (.cb, 0x0000)],
    (presented x.1 x.2).nextEvent = .turn x.1 false ∧ ((presented x.1 x.2).port x.1).cmd = some x.2 ∧
      (presented x.1 x.2).halted = false ∧
      ¬ (x.2.extractLsb' 8 4 = 0 ∧ (x.2.extractLsb' 12 4).toNat ∈ legalOpcodes (presented x.1 x.2).cfg.timedAcquire x.1 ∧
        ((x.2.extractLsb' 12 4).toNat ∈ [0x3, 0xE] ∨ x.2.extractLsb' 0 8 = 0)) := by decide

theorem witness_FaultEntryIsPreciseAndHalts :
    ((presented .pb 0x1000).halted = false ∧
      ∃ t, runEvent (.turn .pb false) (presented .pb 0x1000) = .next t ∧ t.halted = true) ∧
    ∀ e ∈ [Event.turn .pb false, .emit, .syncR2W .b 1, .syncW2R .b 1],
      (halted .pb).halted = true ∧ agentOf e ≠ none := by
  refine ⟨⟨by decide, _, rfl, by decide⟩, by decide⟩

theorem witness_OnlyTheBlockResetLeavesTheHaltedState : ∀ e ∈ [Event.turn .pb false, .present .ca 0x8000, .emit],
    (halted .pb).halted = true ∧ e ≠ .reset ∧ ∃ t, runEvent e (halted .pb) = .next t := by
  intro e he
  refine ⟨by decide, ?_, answers _ ?_⟩ <;> revert e <;> decide

theorem witness_PresentedCommandWaitsOnItsPort :
    ((busy .semaphore false true true .pb).port .ca).cmd = none ∧ ((presented .pb 0x1000).port .pb).cmd ≠ none := by decide

theorem witness_ConfigurationNeverChanges :
    ∃ t, step (presented .pb 0x2000) = .next t := answers _ (by decide)

theorem witness_ChecksComeInOrder :
    (halted .pb).halted = true ∧
    (let s := busy .semaphore false true true .pb
     s.halted = false ∧ legalOn s.cfg.timedAcquire s.turn.port .acqr = false) ∧
    (∀ x ∈ [(Port.pb, Instr.acqw), (.ca, .acqr), (.cb, .acqr)],
      let s := busy .semaphore false true true x.1
      s.halted = false ∧ legalOn s.cfg.timedAcquire s.turn.port x.2 = true ∧
        (heldViolation x.2 (s.queue (if s.turn.port = .ca then .a else .b))).isSome = true) ∧
    ((emitting .semaphore).halted = false ∧ (emitting .semaphore).turn.port = .i ∧
      (emitting .semaphore).parser.pend = true) := by decide

theorem witness_AcqwAcquiresTheWriteSlot :
    (∀ w, let s := busy .semaphore true w true .pb
      s.halted = false ∧ s.turn.port = .pb ∧
        s.queueB.arbiter = .semaphore { wIdx := 1, rIdx := 0, semW := if w then 0 else 1, semR := 0 } ∧ s.queueB.wHeld = w) ∧
    (full .semaphore).halted = false ∧ (full .semaphore).turn.port = .pb ∧
      (full .semaphore).queueB.arbiter = .semaphore { wIdx := 0, rIdx := 0, semW := 0, semR := 2 } ∧
      (full .semaphore).queueB.wHeld = false := by decide

theorem witness_RelwHandsTheSlotOver : ∀ w, let s := busy .semaphore false w true .pb
    s.halted = false ∧ s.turn.port = .pb ∧
      s.queueB.arbiter = .semaphore { wIdx := 1, rIdx := 0, semW := if w then 0 else 1, semR := 0 } ∧
      s.queueB.wHeld = w := by decide

/-- A slot of B with the given count held for writing. -/
def writing (cnt : Word) : State :=
  { busy .semaphore false true true .pb with
    queueB := { queueBOf .semaphore true true with
      slots := [Slot.empty, { rd := 1, wr := BitVec.ofNat 16 ((1 + cnt.toNat) % 4), cnt := cnt }] } }

theorem witness_AddbAppendsTheByte :
    (∀ w, (busy .semaphore false w true .pb).halted = false ∧ (busy .semaphore false w true .pb).turn.port = .pb ∧
      (busy .semaphore false w true .pb).queueB.wHeld = w) ∧
    ((writing 4).halted = false ∧ (writing 4).turn.port = .pb ∧ (writing 4).queueB.wHeld = true) ∧
    ((writing 3).halted = false ∧ (writing 3).turn.port = .pb ∧ (writing 3).queueB.wHeld = true) ∧
    ((writing 4).queueB.slot 1).cnt.toNat = (writing 4).cfg.b.cap ∧ ((writing 3).queueB.slot 1).cnt.toNat ≠ (writing 3).cfg.b.cap ∧
    (writing 3).queueB.writeSlot (writing 3).cfg.b = 1 ∧
    1 * (writing 3).cfg.b.cap + ((writing 3).queueB.slot 1).wr.toNat < (writing 3).cfg.b.n * (writing 3).cfg.b.cap ∧
    1 * (writing 2).cfg.b.cap + ((writing 2).queueB.slot 1).wr.toNat + 1 = (writing 2).cfg.b.n * (writing 2).cfg.b.cap := by
  decide

theorem witness_AddbStoresOnlyAtTheWriteCursor :
    (writing 2).halted = false ∧ (writing 2).turn.port = .pb ∧ (writing 2).queueB.wHeld = true ∧
      ((writing 2).queueB.slot ((writing 2).queueB.writeSlot (writing 2).cfg.b)).cnt.toNat ≠ (writing 2).cfg.b.cap ∧
      ∃ t, exec (.addb 0x77) (writing 2) = .next t :=
  ⟨by decide, by decide, by decide, by decide, answers _ (by decide)⟩

theorem witness_WfullTellsWhetherTheWriteSlotIsFull : ∀ w, let s := busy .semaphore false w true .pb
    s.halted = false ∧ s.turn.port = .pb ∧ s.queueB.wHeld = w := by decide

theorem witness_WemptyTellsWhetherTheWriteSlotIsEmpty : ∀ w, let s := busy .semaphore false w true .pb
    s.halted = false ∧ s.turn.port = .pb ∧ s.queueB.wHeld = w := by decide

/-- A full B, TIMED_ACQUIRE present, the draw as given. -/
def timing (k : ArbiterKind) (timeout : Bool) : State :=
  { full k with cfg := cfgOf k true, turn := { port := .pb, timeout := timeout } }

theorem witness_AcqwtAcquiresOrTimesOut :
    (∀ timed w, let s := busy .semaphore timed w true .pb
      s.halted = false ∧ s.turn.port = .pb ∧ s.cfg.timedAcquire = timed ∧ s.queueB.wHeld = w ∧
        s.queueB.arbiter = .semaphore { wIdx := 1, rIdx := 0, semW := if w then 0 else 1, semR := 0 }) ∧
    (∀ d, let s := timing .semaphore d
      s.halted = false ∧ s.turn.port = .pb ∧ s.cfg.timedAcquire = true ∧ s.queueB.wHeld = false ∧ s.turn.timeout = d ∧
      s.queueB.arbiter = .semaphore { wIdx := 0, rIdx := 0, semW := 0, semR := 2 }) := by decide

/-- The two consumer ports with their queues. -/
def consumers : List (Port × QueueId) := [(.ca, .a), (.cb, .b)]

theorem witness_AcqrAcquiresTheOldestFilledSlot :
    (∀ x ∈ consumers, ∀ r, let s := busy .semaphore false false r x.1
      s.halted = false ∧ s.turn.port = x.1 ∧
        (s.queue x.2).arbiter = .semaphore { wIdx := 1, rIdx := 0, semW := 1, semR := if r then 0 else 1 } ∧
        (s.queue x.2).rHeld = r) ∧
    (∀ x ∈ consumers, let s := fresh x.1
      s.halted = false ∧ s.turn.port = x.1 ∧ (s.queue x.2).rHeld = false ∧
        (s.queue x.2).arbiter = .semaphore { wIdx := 0, rIdx := 0, semW := 2, semR := 0 }) := by decide

theorem witness_RelrRecyclesTheReadSlot : ∀ x ∈ consumers, ∀ r, let s := busy .semaphore false false r x.1
    s.halted = false ∧ s.turn.port = x.1 ∧ (s.queue x.2).rHeld = r ∧
      (s.queue x.2).arbiter = .semaphore { wIdx := 1, rIdx := 0, semW := 1, semR := if r then 0 else 1 } := by decide

/-- A busy block whose read slots have nothing left. -/
def drained (p : Port) : State :=
  { busy .semaphore false false true p with
    queueA := { queueAOf .semaphore true with slots := [{ rd := 2, wr := 2, cnt := 0 }, Slot.empty] },
    queueB := { queueBOf .semaphore false true with slots := [{ rd := 1, wr := 1, cnt := 0 }, Slot.empty] } }

/-- The hypotheses of the accesses to the read slot: not held; held with nothing left; held with a byte that has a value. -/
theorem witness_RembRemovesTheOldestByte : ∀ x ∈ consumers,
    (∀ r, (busy .semaphore false true r x.1).halted = false ∧ (busy .semaphore false true r x.1).turn.port = x.1 ∧
      ((busy .semaphore false true r x.1).queue x.2).rHeld = r) ∧
    ((drained x.1).halted = false ∧ (drained x.1).turn.port = x.1 ∧ ((drained x.1).queue x.2).rHeld = true ∧
      (((drained x.1).queue x.2).slot 0).cnt.toNat = 0) ∧
    (let q := (busy .semaphore false true true x.1).queue x.2
     let g := (busy .semaphore false true true x.1).cfg.queue x.2
     q.readSlot g = 0 ∧ (q.slot 0).cnt.toNat ≠ 0 ∧ 0 * g.cap + (q.slot 0).rd.toNat < g.n * g.cap ∧
      (q.ram.read (0 * g.cap + (q.slot 0).rd.toNat)).isSome = true) := by decide

theorem witness_PeekReturnsTheOldestByte : ∀ x ∈ consumers,
    (∀ r, (busy .semaphore false true r x.1).halted = false ∧ (busy .semaphore false true r x.1).turn.port = x.1 ∧
      ((busy .semaphore false true r x.1).queue x.2).rHeld = r) ∧
    ((drained x.1).halted = false ∧ (drained x.1).turn.port = x.1 ∧ ((drained x.1).queue x.2).rHeld = true ∧
      (((drained x.1).queue x.2).slot 0).cnt.toNat = 0) ∧
    (let q := (busy .semaphore false true true x.1).queue x.2
     let g := (busy .semaphore false true true x.1).cfg.queue x.2
     q.readSlot g = 0 ∧ (q.slot 0).cnt.toNat ≠ 0 ∧ 0 * g.cap + (q.slot 0).rd.toNat < g.n * g.cap ∧
      (q.ram.read (0 * g.cap + (q.slot 0).rd.toNat)).isSome = true) := by decide

theorem witness_RfullTellsWhetherTheReadSlotIsFull : ∀ x ∈ consumers, ∀ r, let s := busy .semaphore false true r x.1
    s.halted = false ∧ s.turn.port = x.1 ∧ (s.queue x.2).rHeld = r := by decide

theorem witness_RemptyTellsWhetherTheReadSlotIsEmpty : ∀ x ∈ consumers, ∀ r, let s := busy .semaphore false true r x.1
    s.halted = false ∧ s.turn.port = x.1 ∧ (s.queue x.2).rHeld = r := by decide

/-- `Fw = 1 < N`, `Fr = 1`; in the full block `Fw = N`; after reset `Fr = 0`. -/
theorem witness_AcquiresUnderGrayCdcCheckTheViews :
    (let s := busy .grayCdc true false false .pb
     s.halted = false ∧ s.turn.port = .pb ∧ s.cfg.timedAcquire = true ∧ s.queueB.wHeld = false ∧
       s.queueB.arbiter = .grayCdc { wPtr := 1, rPtr := 0, rPtrSyncW := 0, wPtrSyncR := 1 } ∧
       ((1 : Int) - 0) % (2 * (s.cfg.b.n : Int)) < s.cfg.b.n) ∧
    (let s := full .grayCdc
     s.halted = false ∧ s.turn.port = .pb ∧ s.queueB.wHeld = false ∧
       s.queueB.arbiter = .grayCdc { wPtr := 2, rPtr := 0, rPtrSyncW := 0, wPtrSyncR := 1 } ∧
       ((2 : Int) - 0) % (2 * (s.cfg.b.n : Int)) = s.cfg.b.n) ∧
    (∀ d, let s := timing .grayCdc d
     s.halted = false ∧ s.turn.port = .pb ∧ s.cfg.timedAcquire = true ∧ s.queueB.wHeld = false ∧ s.turn.timeout = d ∧
       s.queueB.arbiter = .grayCdc { wPtr := 2, rPtr := 0, rPtrSyncW := 0, wPtrSyncR := 1 } ∧
       ((2 : Int) - 0) % (2 * (s.cfg.b.n : Int)) = s.cfg.b.n) ∧
    (∀ x ∈ consumers, let s := busy .grayCdc false false false x.1
      s.halted = false ∧ s.turn.port = x.1 ∧ (s.queue x.2).rHeld = false ∧
        (s.queue x.2).arbiter = .grayCdc { wPtr := 1, rPtr := 0, rPtrSyncW := 0, wPtrSyncR := 1 } ∧
        ((1 : Int) - 0) % (2 * ((s.cfg.queue x.2).n : Int)) ≠ 0) ∧
    (∀ x ∈ consumers, let s := { State.resetWith (cfgOf .grayCdc false) with turn := { port := x.1, timeout := false } }
      s.halted = false ∧ s.turn.port = x.1 ∧ (s.queue x.2).rHeld = false ∧
        (s.queue x.2).arbiter = .grayCdc { wPtr := 0, rPtr := 0, rPtrSyncW := 0, wPtrSyncR := 0 } ∧
        ((0 : Int) - 0) % (2 * ((s.cfg.queue x.2).n : Int)) = 0) := by decide

theorem witness_ReleasesUnderGrayCdcAdvanceThePointers :
    (∀ w, let s := busy .grayCdc false w true .pb
      s.halted = false ∧ s.turn.port = .pb ∧ s.queueB.wHeld = w ∧
        s.queueB.arbiter = .grayCdc { wPtr := 1, rPtr := 0, rPtrSyncW := 0, wPtrSyncR := 1 }) ∧
    (∀ x ∈ consumers, ∀ r, let s := busy .grayCdc false true r x.1
      s.halted = false ∧ s.turn.port = x.1 ∧ (s.queue x.2).rHeld = r ∧
        (s.queue x.2).arbiter = .grayCdc { wPtr := 1, rPtr := 0, rPtrSyncW := 0, wPtrSyncR := 1 }) := by decide

/-- Both clauses, on both queues, with nothing held and with both slots held. -/
theorem witness_ViewsNeverExceedTheCounters : ∀ x,
    (∀ w r, (busy .grayCdc false w r .pb).Inv) ∧
    (∀ w r, ((busy .grayCdc false w r .pb).queue x).arbiter =
      .grayCdc { wPtr := 1, rPtr := 0, rPtrSyncW := 0, wPtrSyncR := 1 }) ∧
    ((busy .grayCdc false false false .pb).queue x).wHeld = false ∧
    ((busy .grayCdc false false false .pb).queue x).rHeld = false ∧
    ((State.resetWith (cfgOf .grayCdc false)).queue x).arbiter =
      .grayCdc { wPtr := 0, rPtr := 0, rPtrSyncW := 0, wPtrSyncR := 0 } :=
  fun x => ⟨fun w r => busy_good _ _ _ _ _, fun w r => by cases x <;> cases w <;> cases r <;> decide,
    by cases x <;> decide, by cases x <;> decide, by cases x <;> decide⟩

/-! ### A run in which the copies catch up -/

/-- B of a GRAY_CDC block: one slot recycled, one filled, the copies as given. -/
def lagging (rs ws : Count) : State :=
  { State.resetWith (cfgOf .grayCdc false) with
    queueB := { Queue.reset { n := 2, cap := 4, arbiter := .grayCdc } with
      arbiter := .grayCdc { wPtr := 2, rPtr := 1, rPtrSyncW := rs, wPtrSyncR := ws } } }

/-- The events of the run: one step of each synchroniser, then nothing to do. -/
def catchUpEvents (n : Nat) : Event :=
  match n with
  | 0 => .syncR2W .b 1
  | 1 => .syncW2R .b 1
  | _ + 2 => .emit

/-- The states of the run. -/
def catchUpStates (n : Nat) : State :=
  match n with
  | 0 => lagging 0 1
  | 1 => lagging 1 1
  | _ + 2 => lagging 1 2

/-- The synchroniser has a step exactly while its copy lags. -/
theorem witness_SyncMovesACopyForward :
    (lagging 0 1).halted = false ∧
    ((lagging 0 1).queue .b).arbiter = .grayCdc { wPtr := 2, rPtr := 1, rPtrSyncW := 0, wPtrSyncR := 1 } ∧
    (let m : Int := 2 * (((lagging 0 1).cfg.queue .b).n : Int)
     (1 ≤ 1 ∧ (1 : Int) ≤ (1 - 0) % m) ∧ ¬ (1 ≤ 2 ∧ (2 : Int) ≤ (1 - 0) % m) ∧
       (1 ≤ 1 ∧ (1 : Int) ≤ (2 - 1) % m) ∧ ¬ (1 ≤ 0 ∧ (0 : Int) ≤ (2 - 1) % m)) := by decide

theorem catchUp_run : IsRun catchUpEvents catchUpStates := by
  intro n
  match n with
  | 0 => rfl
  | 1 => rfl
  | _ + 2 => exact (rfl : runEvent .emit (lagging 1 2) = .next (lagging 1 2))

theorem syncR2W_still (g : QueueParams) (q : Queue) (p : GrayPointers) (d : Nat) (ha : q.arbiter = .grayCdc p)
    (h : pointerDistance g p.rPtr p.rPtrSyncW = 0) : q.syncR2W g d = q := by
  obtain ⟨sl, ar, w, r, m⟩ := q
  subst ha
  have hd : ¬ (1 ≤ d ∧ d = 0) := by omega
  simp [Queue.syncR2W, syncPointer, h, hd]

theorem syncW2R_still (g : QueueParams) (q : Queue) (p : GrayPointers) (d : Nat) (ha : q.arbiter = .grayCdc p)
    (h : pointerDistance g p.wPtr p.wPtrSyncR = 0) : q.syncW2R g d = q := by
  obtain ⟨sl, ar, w, r, m⟩ := q
  subst ha
  have hd : ¬ (1 ≤ d ∧ d = 0) := by omega
  simp [Queue.syncW2R, syncPointer, h, hd]

/-- In the last state no agent has a step. -/
theorem caught_up (a : Agent) : ¬ a.Enabled (lagging 1 2) := by
  rintro ⟨e, he, hs⟩
  apply hs
  cases e with
  | turn p d => exact ⟨{ port := p, timeout := d }, by cases p <;> rfl⟩
  | emit => exact ⟨(lagging 1 2).turn, rfl⟩
  | syncR2W x d =>
    refine ⟨(lagging 1 2).turn, congrArg Host.Outcome.next ?_⟩
    cases x
    · exact congrArg (fun q => { lagging 1 2 with queueA := q })
        (syncR2W_still (lagging 1 2).cfg.a (lagging 1 2).queueA _ d rfl (by decide))
    · exact congrArg (fun q => { lagging 1 2 with queueB := q })
        (syncR2W_still (lagging 1 2).cfg.b (lagging 1 2).queueB _ d rfl (by decide))
  | syncW2R x d =>
    refine ⟨(lagging 1 2).turn, congrArg Host.Outcome.next ?_⟩
    cases x
    · exact congrArg (fun q => { lagging 1 2 with queueA := q })
        (syncW2R_still (lagging 1 2).cfg.a (lagging 1 2).queueA _ d rfl (by decide))
    · exact congrArg (fun q => { lagging 1 2 with queueB := q })
        (syncW2R_still (lagging 1 2).cfg.b (lagging 1 2).queueB _ d rfl (by decide))
  | present p w => cases he
  | reset => cases he

theorem lagging_good (n : Nat) : (catchUpStates n).Inv := by
  match n with
  | 0 => exact checkState_inv _ (by decide)
  | 1 => exact checkState_inv _ (by decide)
  | _ + 2 => exact checkState_inv (lagging 1 2) (by decide)

/-- The run is fair, stays good, and both pointers stay where they are, for x = B, n = 0, v = 1 and v = 2. -/
theorem witness_SyncCatchesUpUnderWeakFairness :
    IsRun catchUpEvents catchUpStates ∧ WeaklyFair catchUpEvents catchUpStates ∧
    (∀ m, 0 ≤ m → (catchUpStates m).Inv ∧ (catchUpStates m).halted = false) ∧
    (∀ m, 0 ≤ m → ∃ g, ((catchUpStates m).queue .b).arbiter = .grayCdc g ∧ g.rPtr = 1) ∧
    (∀ m, 0 ≤ m → ∃ g, ((catchUpStates m).queue .b).arbiter = .grayCdc g ∧ g.wPtr = 2) := by
  refine ⟨catchUp_run, fun a n h => absurd (h (n + 2) (by omega)) (caught_up a), fun m _ => ⟨lagging_good m, ?_⟩,
    fun m _ => ?_, fun m _ => ?_⟩
  all_goals match m with
    | 0 => first | rfl | exact ⟨_, rfl, rfl⟩
    | 1 => first | rfl | exact ⟨_, rfl, rfl⟩
    | _ + 2 => first | exact (rfl : (lagging 1 2).halted = false) | exact ⟨_, rfl, rfl⟩

/-! ### The parser, the queues, the whole block -/

/-- The parser in state `st`, not halted, nothing pending. -/
def parsing (st : ParserState) (plen idx csum : Byte) : State :=
  { busy .semaphore false true true .i with
    parser := { collecting with st := st, plen := plen, idx := idx, csum := csum, data := [] } }

theorem witness_PbyteInAwaitPreamble1 :
    (parsing .awaitPreamble1 0 0 0).halted = false ∧ (parsing .awaitPreamble1 0 0 0).turn.port = .i ∧
      (parsing .awaitPreamble1 0 0 0).parser.pend = false ∧ (parsing .awaitPreamble1 0 0 0).parser.st = .awaitPreamble1 ∧
      (0x02 : Byte) ≠ 0x03 := by decide

theorem witness_PbyteInAwaitPreamble2And3 : ∀ st ∈ [ParserState.awaitPreamble2, .awaitPreamble3],
    (parsing st 0 0 3).halted = false ∧ (parsing st 0 0 3).turn.port = .i ∧ (parsing st 0 0 3).parser.pend = false ∧
      (parsing st 0 0 3).parser.st = st ∧ (0x03 : Byte) ≠ 0xAF ∧ (0x03 : Byte) ≠ 0xEF := by decide

theorem witness_PbyteInAwaitCommand :
    (parsing .awaitCommand 0 0 3).halted = false ∧ (parsing .awaitCommand 0 0 3).turn.port = .i ∧
      (parsing .awaitCommand 0 0 3).parser.pend = false ∧ (parsing .awaitCommand 0 0 3).parser.st = .awaitCommand := by decide

/-- The lengths 5 and 6 lie on the two sides of the test. -/
theorem witness_PbyteInAwaitLength :
    (parsing .awaitLength 0 0 3).halted = false ∧ (parsing .awaitLength 0 0 3).turn.port = .i ∧
      (parsing .awaitLength 0 0 3).parser.pend = false ∧ (parsing .awaitLength 0 0 3).parser.st = .awaitLength ∧
      1 ≤ ((6 : Byte).toNat : Int) - 5 ∧ ¬ 1 ≤ ((5 : Byte).toNat : Int) - 5 := by decide

/-- A payload that goes on, one that ends with checksum 0, and one that ends with another checksum; at the last index. -/
theorem witness_PbyteInCollectPayload : ∀ n ∈ [0, 248, 249],
    (parsing .collectPayload 255 (BitVec.ofNat 8 n) 0x45).halted = false ∧
      (parsing .collectPayload 255 (BitVec.ofNat 8 n) 0x45).turn.port = .i ∧
      (parsing .collectPayload 255 (BitVec.ofNat 8 n) 0x45).parser.pend = false ∧
      (parsing .collectPayload 255 (BitVec.ofNat 8 n) 0x45).parser.st = .collectPayload ∧
      (parsing .collectPayload 255 (BitVec.ofNat 8 n) 0x45).parser.idx.toNat < 250 ∧
      (((n : Int) + 1 = 255 - 5) ↔ n = 249) ∧ (0x45 : Byte) ^^^ 0x45 = 0 ∧ (0x45 : Byte) ^^^ 0x44 ≠ 0 := by decide

theorem witness_PbyteInErrorRecovery :
    (parsing .errorRecovery 0 0 3).halted = false ∧ (parsing .errorRecovery 0 0 3).turn.port = .i ∧
      (parsing .errorRecovery 0 0 3).parser.pend = false ∧ (parsing .errorRecovery 0 0 3).parser.st = .errorRecovery := by
  decide

theorem witness_FramingErrorsNeverStopTheParser :
    ((busy .semaphore false true true .i).Inv ∧ (busy .semaphore false true true .i).halted = false ∧
      (busy .semaphore false true true .i).turn.port = .i ∧ (busy .semaphore false true true .i).parser.pend = false) ∧
    (emitting .grayCdc).Inv ∧ (emitting .grayCdc).halted = false ∧ (emitting .grayCdc).turn.port = .i ∧
      (emitting .grayCdc).parser.pend = true :=
  ⟨⟨busy_good _ _ _ _ _, by decide, by decide, by decide⟩, emitting_good _, by decide, by decide, by decide⟩

/-- A byte that emits and one that does not. -/
theorem witness_WhichBytesEmit : ∀ b ∈ [(0x02 : Byte), 0x03],
    (parsing .awaitPreamble1 0 0 0).halted = false ∧ (parsing .awaitPreamble1 0 0 0).turn.port = .i ∧
      (parsing .awaitPreamble1 0 0 0).parser.pend = false ∧ ∃ t, exec (.pbyte b) (parsing .awaitPreamble1 0 0 0) = .next t :=
  fun b _ => ⟨by decide, by decide, by decide, answers _ (by revert b; decide)⟩

/-- FP-10 (checksum 0) and the same frame with another last byte, from P1 and from ER. -/
theorem witness_ChecksumLaw : ∀ st ∈ [ParserState.awaitPreamble1, .errorRecovery],
    (parsing st 0 0 0).halted = false ∧ (parsing st 0 0 0).turn.port = .i ∧ (parsing st 0 0 0).parser.pend = false ∧
      ((parsing st 0 0 0).parser.st = .awaitPreamble1 ∨ (parsing st 0 0 0).parser.st = .errorRecovery) ∧
      6 ≤ (6 : Byte).toNat ∧ [(0x45 : Byte)].length = (6 : Byte).toNat - 5 ∧
      [(0x03 : Byte), 0xAF, 0xEF, 0x00, 0x06, 0x45].foldl (fun x y => x ^^^ y) 0 = 0 ∧
      [(0x03 : Byte), 0xAF, 0xEF, 0x00, 0x06, 0x44].foldl (fun x y => x ^^^ y) 0 ≠ 0 := by decide

theorem witness_RecordBytes :
    6 ≤ (6 : Byte).toNat ∧ [(0x45 : Byte)].length = (6 : Byte).toNat - 5 ∧
      ∀ k, (hk : k < [(0x45 : Byte)].length) → Memory.read [(0, 0x45)] k = some [(0x45 : Byte)][k] := by
  refine ⟨by decide, by decide, fun k hk => ?_⟩
  obtain rfl : k = 0 := by simpa using hk
  rfl

/-- Under either arbiter: a write slot of A is free in `emitting`, none in `full`; nothing is pending in `busy`. -/
theorem witness_EmitMovesThePendingFrame : ∀ k,
    ((busy k false true true .i).Inv ∧ (busy k false true true .i).parser.pend = false) ∧
    ((emitting k).Inv ∧ (emitting k).halted = false ∧ (emitting k).parser.pend = true ∧
      (emitting k).queueA.canAcquireWrite (emitting k).cfg.a = true) ∧
    ((full k).Inv ∧ (full k).halted = false ∧ (full k).parser.pend = true ∧
      (full k).queueA.canAcquireWrite (full k).cfg.a = false) :=
  fun k => ⟨⟨busy_good _ _ _ _ _, by cases k <;> decide⟩, ⟨emitting_good k, by cases k <;> decide, by cases k <;> decide, by cases k <;> decide⟩, full_good k,
    by cases k <;> decide, by cases k <;> decide, by cases k <;> decide⟩

/-- A good state in which a command waits: its step answers. -/
theorem presented_good : (presented .pb 0x2000).Inv := checkState_inv _ (by decide)

theorem witness_EveryStepKeepsTheInvariant :
    (presented .pb 0x2000).Inv ∧ ∃ t, step (presented .pb 0x2000) = .next t := ⟨presented_good, answers _ (by decide)⟩

theorem witness_NoStepReadsAnUnwrittenByte : (presented .pb 0x2000).Inv := presented_good

theorem witness_ProducerAndConsumerNeverShareASlot : ∀ k,
    (busy k false true true .pb).Inv ∧ ((busy k false true true .pb).queue .b).wHeld = true ∧
      ((busy k false true true .pb).queue .b).rHeld = true :=
  fun k => ⟨busy_good _ _ _ _ _, by cases k <;> decide, by cases k <;> decide⟩

/-- A run in which an acquire and a release complete on B, and one on A; and a full B. -/
theorem witness_BackpressureBound :
    (busy .semaphore false false true .pb).Inv ∧
    (let es := [Event.present .pb 0x1000, .turn .pb false, .present .cb 0x9000, .turn .cb false]
     (∀ e ∈ es, e ≠ .reset) ∧ countEvents (acquireCompletes .b) es (busy .semaphore false false true .pb) = 1 ∧
       countEvents (releaseCompletes .b) es (busy .semaphore false false true .pb) = 1) ∧
    (emitting .semaphore).Inv ∧ countEvents (acquireCompletes .a) [.emit] (emitting .semaphore) = 1 ∧
    ∀ k, (full k).Inv ∧ (full k).halted = false ∧ (full k).turn.port = .pb ∧ (full k).queueB.wHeld = false ∧
      (full k).queueB.filled (full k).cfg.b = (full k).cfg.b.n :=
  ⟨busy_good _ _ _ _ _, by decide, emitting_good _, by decide, fun k => ⟨full_good k, by cases k <;> decide⟩⟩

/-- Each clause, with its command and its held bits. -/
theorem witness_QueueBIsAFifoOfSlots : ∀ k,
    ((busy k false true true .pb).Inv ∧ (busy k false true true .pb).halted = false ∧
      (busy k false true true .pb).queueB.wHeld = true ∧ (∃ t, exec .relw (busy k false true true .pb) = .next t) ∧
      ∃ t, exec (.addb 0x77) (busy k false true true .pb) = .next t) ∧
    ((busy k false true true .cb).Inv ∧ (busy k false true true .cb).halted = false ∧
      (busy k false true true .cb).queueB.rHeld = true ∧ (∃ t, exec .relr (busy k false true true .cb) = .next t) ∧
      ∃ t, exec .remb (busy k false true true .cb) = .next t) ∧
    ((busy k false false true .pb).Inv ∧ (busy k false false true .pb).halted = false ∧
      (busy k false false true .pb).queueB.wHeld = false ∧ ∃ t, exec .acqw (busy k false false true .pb) = .next t) ∧
    ((busy k false true false .cb).Inv ∧ (busy k false true false .cb).halted = false ∧
      (busy k false true false .cb).queueB.rHeld = false ∧ ∃ t, exec .acqr (busy k false true false .cb) = .next t) := by
  intro k
  refine ⟨⟨busy_good _ _ _ _ _, ?_, ?_, answers _ ?_, answers _ ?_⟩, ⟨busy_good _ _ _ _ _, ?_, ?_, answers _ ?_, answers _ ?_⟩,
    ⟨busy_good _ _ _ _ _, ?_, ?_, answers _ ?_⟩, busy_good _ _ _ _ _, ?_, ?_, answers _ ?_⟩ <;> cases k <;> decide

/-- Both arbiters: a write slot held, no read slot held, and under GRAY_CDC a consumer that has seen nothing. -/
def unseen (k : ArbiterKind) : State :=
  { busy k false true false .pb with
    queueB := { queueBOf k true false with
      slots := [{ rd := 0, wr := 1, cnt := 1 }, Slot.empty],
      arbiter := match k with
        | .semaphore => .semaphore { wIdx := 0, rIdx := 0, semW := 1, semR := 0 }
        | .grayCdc => .grayCdc { wPtr := 0, rPtr := 0, rPtrSyncW := 0, wPtrSyncR := 0 } } }

theorem witness_RelwBecomesVisibleToAcqr :
    (∀ k, (unseen k).Inv ∧ (unseen k).halted = false ∧ (unseen k).turn.port = .pb ∧ (unseen k).queueB.wHeld = true ∧
      (unseen k).queueB.rHeld = false) ∧
    (unseen .semaphore).queueB.arbiter = .semaphore { wIdx := 0, rIdx := 0, semW := 1, semR := 0 } ∧
    (unseen .grayCdc).queueB.arbiter = .grayCdc { wPtr := 0, rPtr := 0, rPtrSyncW := 0, wPtrSyncR := 0 } :=
  ⟨fun k => ⟨checkState_inv _ (by cases k <;> decide), by cases k <;> decide⟩, by decide, by decide⟩

/-- Both queues with all slots filled as the producer sees it, read slots held, a frame pending. -/
def releasing (k : ArbiterKind) (p : Port) : State :=
  let held : Arbiter := match k with
    | .semaphore => .semaphore { wIdx := 0, rIdx := 0, semW := 0, semR := 1 }
    | .grayCdc => .grayCdc { wPtr := 2, rPtr := 0, rPtrSyncW := 0, wPtrSyncR := 1 }
  { full k with
    turn := { port := p, timeout := false },
    queueA := { (full k).queueA with rHeld := true, arbiter := held },
    queueB := { (full k).queueB with rHeld := true, arbiter := held } }

theorem releasing_good (k : ArbiterKind) (p : Port) : (releasing k p).Inv :=
  checkState_inv _ (by cases k <;> cases p <;> decide)

theorem witness_RelrBecomesVisibleToAcqw :
    (∀ k, let s := releasing k .cb
      s.Inv ∧ s.halted = false ∧ s.turn.port = .cb ∧ s.queueB.rHeld = true ∧ s.queueB.wHeld = false) ∧
    (releasing .semaphore .cb).queueB.arbiter = .semaphore { wIdx := 0, rIdx := 0, semW := 0, semR := 1 } ∧
    (releasing .grayCdc .cb).queueB.arbiter = .grayCdc { wPtr := 2, rPtr := 0, rPtrSyncW := 0, wPtrSyncR := 1 } ∧
    ((2 : Int) - 0) % (2 * ((releasing .grayCdc .cb).cfg.b.n : Int)) = (releasing .grayCdc .cb).cfg.b.n :=
  ⟨fun k => ⟨releasing_good k .cb, by cases k <;> decide⟩, by decide, by decide, by decide⟩

/-- A block with an empty A and a frame pending. -/
def firstFrame (k : ArbiterKind) : State := { State.resetWith (cfgOf k false) with parser := pending }

theorem witness_ReleasesOnQueueABecomeVisible :
    (∀ k, let s := firstFrame k
      s.Inv ∧ s.halted = false ∧ s.parser.pend = true ∧ s.queueA.rHeld = false) ∧
    (firstFrame .semaphore).queueA.arbiter = .semaphore { wIdx := 0, rIdx := 0, semW := 2, semR := 0 } ∧
    (firstFrame .grayCdc).queueA.arbiter = .grayCdc { wPtr := 0, rPtr := 0, rPtrSyncW := 0, wPtrSyncR := 0 } ∧
    ((0 : Int) - 0) % (2 * ((firstFrame .grayCdc).cfg.a.n : Int)) < (firstFrame .grayCdc).cfg.a.n ∧
    (∀ k, let s := releasing k .ca
      s.Inv ∧ s.halted = false ∧ s.parser.pend = true ∧ s.turn.port = .ca ∧ s.queueA.rHeld = true) ∧
    (releasing .semaphore .ca).queueA.arbiter = .semaphore { wIdx := 0, rIdx := 0, semW := 0, semR := 1 } ∧
    (releasing .grayCdc .ca).queueA.arbiter = .grayCdc { wPtr := 2, rPtr := 0, rPtrSyncW := 0, wPtrSyncR := 1 } ∧
    ((2 : Int) - 0) % (2 * ((releasing .grayCdc .ca).cfg.a.n : Int)) = (releasing .grayCdc .ca).cfg.a.n :=
  ⟨fun k => ⟨checkState_inv _ (by cases k <;> decide), by cases k <;> decide⟩, by decide, by decide, by decide,
    fun k => ⟨releasing_good k .ca, by cases k <;> decide⟩, by decide, by decide, by decide⟩

/-- A GRAY_CDC block and events of it that answer: EMIT, and an ACQWT that acquires. -/
theorem witness_GrayCdcRefinesSemaphore :
    ((emitting .grayCdc).Inv ∧ ∃ t, runEvent .emit (emitting .grayCdc) = .next t ∧
      ¬ ((emitting .grayCdc).portPB.rsp = none ∧ t.portPB.rsp = some 0x0300#16)) ∧
    (let s := { busy .grayCdc true false true .pb with portPB := { cmd := some 0x6000, rsp := none } }
     s.Inv ∧ s.cfg.timedAcquire = true ∧ ∃ t, runEvent (.turn .pb false) s = .next t ∧ t.queueB.wHeld = true ∧
      ¬ (s.portPB.rsp = none ∧ t.portPB.rsp = some 0x0300#16)) :=
  ⟨⟨emitting_good _, _, rfl, by decide⟩, checkState_inv _ (by decide), rfl, _, rfl, rfl, by decide⟩

/-- Each clause on A: an emission that goes and one that holds, an input byte, and the commands of C_A. -/
theorem witness_QueueAIsAFifoOfRecords : ∀ k,
    ((emitting k).Inv ∧ (emitting k).halted = false ∧ (emitting k).parser.pend = true ∧
      ∃ t, runEvent .emit (emitting k) = .next t) ∧
    ((full k).Inv ∧ (full k).halted = false ∧ (full k).parser.pend = true ∧ ∃ t, runEvent .emit (full k) = .next t) ∧
    ((busy k false true true .i).Inv ∧ (busy k false true true .i).halted = false ∧
      ∃ t, exec (.pbyte 0x77) (busy k false true true .i) = .next t) ∧
    ((busy k false true true .ca).Inv ∧ (busy k false true true .ca).halted = false ∧
      (busy k false true true .ca).queueA.rHeld = true ∧ (∃ t, exec .relr (busy k false true true .ca) = .next t) ∧
      ∃ t, exec .remb (busy k false true true .ca) = .next t) ∧
    ((busy k false true false .ca).Inv ∧ (busy k false true false .ca).halted = false ∧
      (busy k false true false .ca).queueA.rHeld = false ∧ ∃ t, exec .acqr (busy k false true false .ca) = .next t) := by
  intro k
  refine ⟨⟨emitting_good _, ?_, ?_, answers _ ?_⟩, ⟨full_good _, ?_, ?_, answers _ ?_⟩,
    ⟨busy_good _ _ _ _ _, ?_, answers _ ?_⟩, ⟨busy_good _ _ _ _ _, ?_, ?_, answers _ ?_, answers _ ?_⟩,
    busy_good _ _ _ _ _, ?_, ?_, answers _ ?_⟩ <;> cases k <;> decide

/-- A queue of two slots, the first with two bytes, the second empty. -/
theorem witness_WriteBlockAppendsWhatFits :
    let g : QueueParams := { n := 2, cap := 4, arbiter := .semaphore }
    let q := queueBOf .semaphore false false
    1 ≤ g.cap ∧ g.cap ≤ 65535 ∧ 0 < g.n ∧ 0 < q.slots.length ∧ (q.slot 0).Wf g.cap := by
  simp only [Slot.Wf]; decide

theorem witness_ReadBlockReturnsWhatWasWritten :
    let g : QueueParams := { n := 2, cap := 4, arbiter := .semaphore }
    let q := queueBOf .semaphore false false
    1 ≤ g.cap ∧ g.cap ≤ 65535 ∧ 1 < g.n ∧ 1 < q.slots.length ∧ (q.slot 0).Wf g.cap ∧ (q.slot 1).Wf g.cap ∧
      (∀ i < (q.slot 0).cnt.toNat, (q.ram.read (q.byteAddr g 0 i)).isSome = true) ∧ (q.slot 1).cnt = 0 ∧
      [(0x41 : Byte), 0x42, 0x43, 0x44].length ≤ g.cap := by
  simp only [Slot.Wf]; decide

theorem witness_WblkAppendsWhatFits :
    (busy .grayCdc false true true .i).Inv ∧ (busy .grayCdc false true true .i).halted = false ∧
      (busy .grayCdc false true true .i).queueB.wHeld = true ∧ (busy .grayCdc false true true .i).portPB.cmd = none :=
  ⟨busy_good _ _ _ _ _, by decide, by decide, by decide⟩

theorem witness_RblkReturnsTheOldestBytes : ∀ x ∈ consumers,
    (busy .grayCdc false true true .i).Inv ∧ (busy .grayCdc false true true .i).halted = false ∧
      ((x.1 = .ca ∧ x.2 = .a) ∨ (x.1 = .cb ∧ x.2 = .b)) ∧ ((busy .grayCdc false true true .i).queue x.2).rHeld = true ∧
      ((busy .grayCdc false true true .i).port x.1).cmd = none :=
  fun x hx => ⟨busy_good _ _ _ _ _, by decide, by revert x; decide, by revert x; decide, by revert x; decide⟩

/-- Two blocks that differ in the parser and in A, and two that differ in B; an event of each side that answers. -/
theorem witness_QueuesDoNotInterfere :
    (sideOf (.turn .pb false) = some .b ∧
      AgreeOnB (presented .pb 0x2000) { presented .pb 0x2000 with parser := pending, queueA := queueAOf .semaphore false } ∧
      ∃ t, runEvent (.turn .pb false) (presented .pb 0x2000) = .next t) ∧
    (sideOf .emit = some .a ∧
      AgreeOnA (emitting .semaphore) { emitting .semaphore with queueB := queueBOf .semaphore false false } ∧
      ∃ t, runEvent .emit (emitting .semaphore) = .next t) :=
  ⟨⟨by decide, ⟨rfl, rfl, rfl, rfl, rfl, rfl⟩, answers _ (by decide)⟩, by decide, ⟨rfl, rfl, rfl, rfl, rfl, rfl, rfl⟩,
    answers _ (by decide)⟩

theorem witness_PredicatesAndPeekChangeNoState :
    Instr.wempty ∈ [Instr.peek, .wfull, .wempty, .rfull, .rempty] ∧
      (∃ t, exec .wempty (busy .semaphore false true true .pb) = .next t) ∧
      ∃ t, exec .peek (busy .semaphore false true true .cb) = .next t :=
  ⟨by decide, answers _ (by decide), answers _ (by decide)⟩

end Sys2Proof.Tests
end

section
/-! The slots of a good queue lie in a ring (R16, R17, R82): the write slot stands as many places after the read slot as
slots are filled. Hence R18. -/

namespace Sys2Proof.Machine

/-! ## Pointer distances -/

/-- A pointer is `pointerDistance` positions after the other one, mod 2N (R82). -/
theorem add_pointerDistance_modEq (g : QueueParams) (p q : Count) (h : 1 ≤ g.n) :
    q.toNat + pointerDistance g p q ≡ p.toNat [MOD 2 * g.n] := by
  have hq : q.toNat % (2 * g.n) < 2 * g.n := Nat.mod_lt _ (by omega)
  calc q.toNat + pointerDistance g p q
    _ ≡ q.toNat % (2 * g.n) + (p.toNat + 2 * g.n - q.toNat % (2 * g.n)) [MOD 2 * g.n] :=
        (Nat.mod_modEq _ _).symm.add (Nat.mod_modEq _ _)
    _ = p.toNat + 2 * g.n := by omega
    _ ≡ p.toNat [MOD 2 * g.n] := Nat.add_modEq_right

/-- Distances along the ring of pointers add up, as long as the way is shorter than the ring. -/
theorem pointerDistance_add (g : QueueParams) (p q r : Count)
    (h : pointerDistance g p q + pointerDistance g q r < 2 * g.n) :
    pointerDistance g p r = pointerDistance g p q + pointerDistance g q r := by
  have hn : 1 ≤ g.n := by omega
  have hp : r.toNat + pointerDistance g p r ≡
      r.toNat + (pointerDistance g p q + pointerDistance g q r) [MOD 2 * g.n] :=
    calc r.toNat + pointerDistance g p r
      _ ≡ p.toNat [MOD 2 * g.n] := add_pointerDistance_modEq g p r hn
      _ ≡ q.toNat + pointerDistance g p q [MOD 2 * g.n] := (add_pointerDistance_modEq g p q hn).symm
      _ ≡ r.toNat + pointerDistance g q r + pointerDistance g p q [MOD 2 * g.n] :=
          (add_pointerDistance_modEq g q r hn).symm.add_right _
      _ = r.toNat + (pointerDistance g p q + pointerDistance g q r) := by omega
  exact hp.add_left_cancel'.eq_of_lt_of_lt (pointerDistance_lt g p r hn) h

/-- The pointers in the order of R87 (a): the consumer's view of the filled slots and what it has not seen yet make up F. -/
theorem GrayPointers.Wf.pointerDistance_eq {g : QueueParams} {p : GrayPointers} {wHeld rHeld : Bool}
    (h : p.Wf g wHeld rHeld) (hn : 1 ≤ g.n) :
    pointerDistance g p.wPtr p.rPtr = pointerDistance g p.wPtr p.wPtrSyncR + pointerDistance g p.wPtrSyncR p.rPtr := by
  obtain ⟨_, hsum, _⟩ := h
  have hring : g.n < 2 * g.n := lt_two_mul_self hn
  exact pointerDistance_add g p.wPtr p.wPtrSyncR p.rPtr (by omega)

/-! ## The ring of slots -/

/-- The invariant holds of either queue. -/
theorem State.Inv.queue_wf {s : State} (h : s.Inv) (x : QueueId) : (s.queue x).Wf (s.cfg.queue x) := by
  cases x with
  | a => exact h.queueA_wf
  | b => exact h.queueB_wf

/-- A slot held for reading is one of the filled slots (R17). -/
theorem Queue.ArbiterWf.rHeld_le_filled {g : QueueParams} {q : Queue} (h : q.ArbiterWf g) (hn : 1 ≤ g.n) :
    q.rHeld.toNat ≤ q.filled g := by
  cases ha : q.arbiter with
  | semaphore c =>
    simp only [Queue.filled, ha]
    exact Nat.le_add_left _ _
  | grayCdc p =>
    simp only [Queue.ArbiterWf, Queue.filled, ha] at h ⊢
    obtain ⟨-, hp⟩ := h
    have hF := hp.pointerDistance_eq hn
    obtain ⟨_, _, hseen⟩ := hp
    omega

/-- The filled slots and the one held for writing are at most N (R16, R17, R87 (a)). -/
theorem Queue.ArbiterWf.filled_add_wHeld_le {g : QueueParams} {q : Queue} (h : q.ArbiterWf g) (hn : 1 ≤ g.n) :
    q.filled g + q.wHeld.toNat ≤ g.n := by
  cases ha : q.arbiter with
  | semaphore c =>
    simp only [Queue.ArbiterWf, Queue.filled, ha] at h ⊢
    obtain ⟨-, _, _, hsum, _⟩ := h
    omega
  | grayCdc p =>
    simp only [Queue.ArbiterWf, Queue.filled, ha] at h ⊢
    obtain ⟨-, hp⟩ := h
    have hF := hp.pointerDistance_eq hn
    obtain ⟨_, hsum, _⟩ := hp
    omega

theorem Queue.ArbiterWf.readSlot_lt {g : QueueParams} {q : Queue} (h : q.ArbiterWf g) (hn : 1 ≤ g.n) :
    q.readSlot g < g.n := by
  cases ha : q.arbiter with
  | semaphore c =>
    simp only [Queue.ArbiterWf, Queue.readSlot, ha] at h ⊢
    obtain ⟨-, _, hr, _⟩ := h
    exact hr
  | grayCdc p =>
    simp only [Queue.readSlot, ha]
    exact Nat.mod_lt _ hn

/-- The write slot is the one after the filled slots (R17; for the pointers R82). -/
theorem Queue.ArbiterWf.writeSlot_eq {g : QueueParams} {q : Queue} (h : q.ArbiterWf g) (hn : 1 ≤ g.n) :
    q.writeSlot g = (q.readSlot g + q.filled g) % g.n := by
  cases ha : q.arbiter with
  | semaphore c =>
    simp only [Queue.ArbiterWf, Queue.writeSlot, Queue.readSlot, Queue.filled, ha] at h ⊢
    obtain ⟨-, _, _, _, hw⟩ := h
    exact hw
  | grayCdc p =>
    simp only [Queue.writeSlot, Queue.readSlot, Queue.filled, ha]
    have hw : p.wPtr.toNat ≡ p.rPtr.toNat + pointerDistance g p.wPtr p.rPtr [MOD g.n] :=
      ((add_pointerDistance_modEq g p.wPtr p.rPtr hn).of_mul_left 2).symm
    exact hw.trans ((Nat.mod_modEq _ _).symm.add_right _)

/-- Fewer than `n` and at least one place further in a ring of `n` is another place. -/
theorem add_mod_ne_self {r k n : Nat} (hr : r < n) (hk : 1 ≤ k) (hkn : k < n) : (r + k) % n ≠ r := by
  intro h
  have hmod : r + k ≡ r + 0 [MOD n] := h.trans (Nat.mod_eq_of_lt hr).symm
  have : k = 0 := hmod.add_left_cancel'.eq_of_lt_of_lt hkn (by omega)
  omega

/-- With a slot held for reading F is at least 1, with one held for writing it is below N: the write slot lies strictly
between two passes of the read slot. -/
theorem Queue.ArbiterWf.writeSlot_ne_readSlot {g : QueueParams} {q : Queue} (h : q.ArbiterWf g) (hn : 1 ≤ g.n)
    (hw : q.wHeld = true) (hr : q.rHeld = true) : q.writeSlot g ≠ q.readSlot g := by
  have hlow : 1 ≤ q.filled g := by simpa [hr] using h.rHeld_le_filled hn
  have hhigh : q.filled g < g.n := by simpa [hw] using h.filled_add_wHeld_le hn
  rw [h.writeSlot_eq hn]
  exact add_mod_ne_self (h.readSlot_lt hn) hlow hhigh

/-- Settles O48, from the ring of slots: the write slot is F places after the read slot, and 1 ≤ F < N. -/
theorem producerAndConsumerNeverShareASlot : Obligations.ProducerAndConsumerNeverShareASlot := by
  intro s x hs hw hr
  exact (hs.queue_wf x).arbiter_wf.writeSlot_ne_readSlot (Config.queue_range s.cfg x).1 hw hr

end Sys2Proof.Machine
end

section
/-! What a decoded word says about its fields (R47, R50, R52), and what a word that is illegal on its port does (R52, R53,
R106). -/

namespace Sys2Proof

/-! ## A decoded word, field by field -/

/-- An operand-less row of R50: the opcode is the row's and D is 0x00. -/
theorem decodeBare_ok_fields {w : Word} {i k : Instr} (h : decodeBare w i = .ok k)
    (hop : (opField w).toNat = (opcode i).toNat) (hd : operandByte i = 0) :
    opField w = opcode k ∧ dField w = operandByte k := by
  obtain ⟨hw, rfl⟩ := (decodeBare_ok w i k).1 h
  exact ⟨BitVec.eq_of_toNat_eq hop, hw.trans hd.symm⟩

/-- Row by row of R50: only `addb` and `pbyte`, opcodes 0x3 and 0xE, take their D field from the word. -/
theorem decodeOp_ok_fields {w : Word} {i : Instr} (h : decodeOp w = .ok i) :
    opField w = opcode i ∧ dField w = operandByte i := by
  unfold decodeOp at h
  split at h
  case h_3 hop | h_13 hop =>
    cases h
    exact ⟨BitVec.eq_of_toNat_eq hop, rfl⟩
  case h_14 => cases h
  all_goals
    rename_i hop
    exact decodeBare_ok_fields h hop rfl

/-- The three fields of a word that decodes are those of its command (R47). -/
theorem decode_ok_fields {w : Word} {i : Instr} (h : decode w = .ok i) :
    zField w = 0 ∧ opField w = opcode i ∧ dField w = operandByte i := by
  obtain ⟨hz, hop⟩ := decode_ok_zField w i h
  exact ⟨hz, decodeOp_ok_fields hop⟩

/-- Encoding what a word decodes to gives the word back, because a word is its three fields. -/
theorem encode_of_decode_ok {w : Word} {i : Instr} (h : decode w = .ok i) : encode i = w := by
  obtain ⟨hz, hop, hd⟩ := decode_ok_fields h
  calc encode i
    _ = opField w ++ zField w ++ dField w := by rw [hz, hop, hd]; rfl
    _ = w := fields_join w

/-! ## Legal words -/

/-- A command that is legal on a port has its opcode in `LegalOps` of the port (R50, R52 (c), (e)); for ACQWT, row 19 of
`belongsOn`, because TIMED_ACQUIRE is present. -/
theorem opcode_mem_of_legalOn {timed : Bool} {p : Port} {i : Instr} (h : legalOn timed p i = true) :
    (opcode i).toNat ∈ Machine.legalOpcodes timed p := by
  obtain ⟨hport, htimed⟩ : i.belongsOn p = true ∧ (timed = true ∨ i ≠ .acqwt) := by simpa [legalOn] using h
  unfold Instr.belongsOn at hport
  split at hport
  case h_19 =>
    have : timed = true := by simpa using htimed
    simp [this, opcode, Machine.legalOpcodes]
  case h_20 => cases hport
  all_goals cases timed <;> simp [opcode, Machine.legalOpcodes]

/-- Only opcodes 0x3 and 0xE have an operand (R51). -/
theorem opcode_mem_or_operandByte_zero (i : Instr) : (opcode i).toNat ∈ [0x3, 0xE] ∨ operandByte i = 0 := by
  cases i with
  | addb b => exact .inl (by simp [opcode])
  | pbyte b => exact .inl (by simp [opcode])
  | _ => exact .inr rfl

/-- A word is legal on a port exactly when it decodes to a command that is legal there. -/
theorem legalWord_iff {timed : Bool} {p : Port} {w : Word} :
    legalWord timed p w = true ↔ ∃ i, decode w = .ok i ∧ legalOn timed p i = true := by
  cases hd : decode w <;> simp [legalWord, hd]

/-- A legal word meets every clause of `Legal(p, CMD)` in R52. -/
theorem fields_of_legalWord {timed : Bool} {p : Port} {w : Word} (h : legalWord timed p w = true) :
    zField w = 0 ∧ (opField w).toNat ∈ Machine.legalOpcodes timed p ∧
      ((opField w).toNat ∈ [0x3, 0xE] ∨ dField w = 0) := by
  obtain ⟨i, hdec, hlegal⟩ := legalWord_iff.1 h
  obtain ⟨hz, hop, hd⟩ := decode_ok_fields hdec
  rw [hop, hd]
  exact ⟨hz, opcode_mem_of_legalOn hlegal, opcode_mem_or_operandByte_zero i⟩

end Sys2Proof

namespace Sys2Proof.Machine

/-- No port lists a reserved opcode (R50, R53). -/
theorem reserved_not_mem_legalOpcodes (timed : Bool) (p : Port) :
    ∀ n ∈ [0x0, 0x7, 0xF], n ∉ legalOpcodes timed p := by
  cases p <;> cases timed <;> decide

theorem legalWord_of_reserved (timed : Bool) (p : Port) (w : Word) (h : (opField w).toNat ∈ [0x0, 0x7, 0xF]) :
    legalWord timed p w = false := by
  refine Bool.eq_false_iff.2 fun hlegal => ?_
  obtain ⟨-, hop, -⟩ := fields_of_legalWord hlegal
  exact reserved_not_mem_legalOpcodes timed p _ h hop

/-- Settles O5: a legal word's opcode stands in its port's column of R50, where no reserved opcode stands. -/
theorem reservedOpcodesAreIllegalEverywhere : Obligations.ReservedOpcodesAreIllegalEverywhere :=
  ⟨legalWord_of_reserved, fun timed p => legalWord_of_reserved timed p 0 (by decide)⟩

/-! ## The turn of a port with an illegal word -/

/-- FAULT after ILLEGAL_COMMAND, written out for each port (R24, R105). -/
theorem faultWord_illegalCommand (p : Port) :
    faultWord p .illegalCommand =
      match p with
      | .i => 0x8007#16
      | .ca => 0xA007#16
      | .pb => 0xB007#16
      | .cb => 0xC007#16 := by
  cases p <;> decide

/-- Taking the event and noting the turn leave the ports as they are. -/
theorem State.advance_withTurn_port (s : State) (t : Turn) (p : Port) :
    ({ s.advance with turn := t } : State).port p = s.port p := by
  rw [← State.advance_port s p]
  cases p <;> rfl

/-- A step that gives a port its turn dispatches with the event taken and the turn noted. -/
theorem step_turn {s : State} {p : Port} {timeout : Bool} (hev : s.nextEvent = .turn p timeout) :
    step s = dispatch { s.advance with turn := { port := p, timeout := timeout } } := by
  rw [step_eq, hev]
  rfl

/-- Both ways to be illegal end in the same fault: a word that does not decode, and a command that does not belong on the
port, whose FCMD is the presented word because encoding gives it back. -/
theorem dispatch_illegal {s : State} {w : Word} (hcmd : (s.port s.turn.port).cmd = some w) (hrun : s.halted = false)
    (hillegal : legalWord s.cfg.timedAcquire s.turn.port w = false) :
    dispatch s = .next (s.raise s.turn.port w .illegalCommand) := by
  cases hdec : decode w with
  | error e => simp [dispatch, hcmd, hdec, illegalStep, hrun]
  | ok i =>
    have hoff : legalOn s.cfg.timedAcquire s.turn.port i = false := by simpa [legalWord, hdec] using hillegal
    obtain ⟨rule, hrule⟩ := exec_is_command i s
    calc dispatch s
      _ = exec i s := by simp [dispatch, hcmd, hdec]
      _ = command i s rule := hrule
      _ = .next (s.raise s.turn.port (encode i) .illegalCommand) := command_illegal i s rule hrun hoff
      _ = .next (s.raise s.turn.port w .illegalCommand) := by rw [encode_of_decode_ok hdec]

/-- Settles O7: a word that fails a clause of R52 is not legal on the port, and the turn raises ILLEGAL_COMMAND. -/
theorem illegalWordRaisesIllegalCommand : Obligations.IllegalWordRaisesIllegalCommand := by
  intro s p timeout w hev hcmd hrun hfields
  have hillegal : legalWord s.cfg.timedAcquire p w = false :=
    Bool.eq_false_iff.2 fun hlegal => hfields (fields_of_legalWord hlegal)
  rw [step_turn hev, dispatch_illegal (w := w)]
  case hcmd => exact (congrArg PortState.cmd (State.advance_withTurn_port s _ p)).trans hcmd
  case hrun => exact (State.advance_halted s).trans hrun
  case hillegal => simpa using hillegal
  exact congrArg
    (fun f : Word => Host.Outcome.next { s.advance with turn := { port := p, timeout := timeout }, fault := f, fcmd := w })
    (faultWord_illegalCommand p)

end Sys2Proof.Machine
end

section
/-! What appending bytes to a slot does to its queue (R14, R62), and CB_WriteBlock as a sequence of such appends (R65). -/

namespace Sys2Proof.Machine

/-! ## Addresses within a slot -/

/-- The bytes of a slot lie in its own region of the RAM (R32). -/
theorem slotAddr_region {g : QueueParams} {j k : Nat} (hk : k < g.cap) :
    j * g.cap ≤ slotAddr g j k ∧ slotAddr g j k < (j + 1) * g.cap := by
  rw [slotAddr, Nat.succ_mul]
  omega

theorem slotAddr_lt_ramSize {g : QueueParams} {j k : Nat} (hj : j < g.n) (hk : k < g.cap) :
    slotAddr g j k < ramSize g :=
  (slotAddr_region hk).2.trans_le (Nat.mul_le_mul_right _ hj)

theorem slotAddr_inj {g : QueueParams} {j k l : Nat} : slotAddr g j k = slotAddr g j l ↔ k = l :=
  Nat.add_left_cancel_iff

/-- The write cursor is where the next byte goes: `cnt` places after the oldest one (R14). -/
theorem Slot.Wf.slotAddr_wr {g : QueueParams} {q : Queue} {j : Nat} (h : (q.slot j).Wf g.cap) :
    slotAddr g j (q.slot j).wr.toNat = q.byteAddr g j (q.slot j).cnt.toNat := by
  obtain ⟨-, -, -, hwr⟩ := h
  rw [hwr, Queue.byteAddr]

/-- Positions fewer than CAP places from the oldest byte have addresses of their own. -/
theorem Queue.byteAddr_ne {g : QueueParams} {q : Queue} {j i k : Nat} (hik : i < k) (hk : k < g.cap) :
    q.byteAddr g j i ≠ q.byteAddr g j k := by
  intro h
  have hmod : (q.slot j).rd.toNat + i ≡ (q.slot j).rd.toNat + k [MOD g.cap] := slotAddr_inj.1 h
  have : i = k := hmod.add_left_cancel'.eq_of_lt_of_lt (hik.trans hk) hk
  omega

/-! ## Appending one byte -/

/-- The slot after one more byte: the write cursor moves on, the count grows (R62). -/
def Slot.pushed (g : QueueParams) (s : Slot) : Slot := { s with wr := nextCursor g s.wr, cnt := s.cnt + 1 }

/-- The queue after CB_AddByte on a slot that is not full (R62); `cbAddByte_of_lt` ties it to the operation. -/
def Queue.push (g : QueueParams) (j : Nat) (b : Byte) (q : Queue) : Queue :=
  Queue.setSlot { q with ram := q.ram.write (slotAddr g j (q.slot j).wr.toNat) b } j ((q.slot j).pushed g)

theorem cbAddByte_of_full {g : QueueParams} {j : Nat} {q : Queue} (b : Byte) (h : (q.slot j).cnt.toNat = g.cap) :
    cbAddByte g j b q = .ok { st := .full, value := 0, q := q } := by
  simp [cbAddByte, slotFull, h]

theorem cbAddByte_of_lt {g : QueueParams} {j : Nat} {q : Queue} (b : Byte) (hj : j < g.n)
    (hwf : (q.slot j).Wf g.cap) (hlt : (q.slot j).cnt.toNat < g.cap) :
    cbAddByte g j b q = .ok { st := .ok, value := b, q := q.push g j b } := by
  obtain ⟨-, -, hwr, -⟩ := hwf
  exact cbAddByte_appends g j b q hlt.ne (slotAddr_lt_ramSize hj hwr)

@[simp] theorem Slot.pushed_rd (g : QueueParams) (s : Slot) : (s.pushed g).rd = s.rd := rfl

theorem Slot.pushed_cnt {g : QueueParams} {s : Slot} (hcap : g.cap ≤ 65535) (hlt : s.cnt.toNat < g.cap) :
    (s.pushed g).cnt.toNat = s.cnt.toNat + 1 := by
  have hfits : s.cnt.toNat + 1 < 2 ^ 16 := by omega
  exact (BitVec.toNat_add s.cnt 1).trans (Nat.mod_eq_of_lt hfits)

theorem Slot.Wf.pushed {g : QueueParams} {s : Slot} (h : s.Wf g.cap) (hcap : g.cap ≤ 65535)
    (hlt : s.cnt.toNat < g.cap) : (s.pushed g).Wf g.cap := by
  obtain ⟨-, hrd, hwr, hring⟩ := h
  have hpos : 1 ≤ g.cap := by omega
  have hnext : (s.pushed g).wr.toNat = (s.wr.toNat + 1) % g.cap := nextCursor_toNat g s.wr hpos hcap
  rw [Slot.Wf, Slot.pushed_cnt hcap hlt, hnext]
  refine ⟨hlt, hrd, Nat.mod_lt _ hpos, ?_⟩
  rw [hring, Nat.mod_add_mod]
  rfl

theorem Queue.push_slot {g : QueueParams} {j : Nat} {q : Queue} (b : Byte) (hslot : j < q.slots.length) :
    (q.push g j b).slot j = (q.slot j).pushed g :=
  Queue.setSlot_slot { q with ram := _ } j _ hslot

theorem Queue.push_slot_other (g : QueueParams) (q : Queue) (j k : Nat) (b : Byte) (h : k ≠ j) :
    (q.push g j b).slot k = q.slot k :=
  Queue.setSlot_slot_other { q with ram := _ } j k _ h

theorem Queue.push_ram (g : QueueParams) (q : Queue) (j : Nat) (b : Byte) :
    (q.push g j b).ram = q.ram.write (slotAddr g j (q.slot j).wr.toNat) b := rfl

theorem Queue.push_slots_length (g : QueueParams) (q : Queue) (j : Nat) (b : Byte) :
    (q.push g j b).slots.length = q.slots.length := Queue.setSlot_length _ _ _

/-- The new byte goes to the one address of the slot that no counted byte has, so the older bytes keep their values. -/
theorem Queue.push_slotBytes {g : QueueParams} {j : Nat} {q : Queue} (b : Byte) (hcap : g.cap ≤ 65535)
    (hslot : j < q.slots.length) (hwf : (q.slot j).Wf g.cap) (hlt : (q.slot j).cnt.toNat < g.cap) :
    (q.push g j b).slotBytes g j = q.slotBytes g j ++ [some b] := by
  have haddr (i : Nat) : (q.push g j b).byteAddr g j i = q.byteAddr g j i := by
    rw [Queue.byteAddr, Queue.push_slot b hslot, Slot.pushed_rd, Queue.byteAddr]
  have hold : ∀ i < (q.slot j).cnt.toNat,
      (q.push g j b).ram.read (q.byteAddr g j i) = q.ram.read (q.byteAddr g j i) := by
    intro i hi
    rw [Queue.push_ram, hwf.slotAddr_wr]
    exact Memory.read_write_other _ _ _ _ (Queue.byteAddr_ne hi hlt)
  have hnew : (q.push g j b).ram.read (q.byteAddr g j (q.slot j).cnt.toNat) = some b := by
    rw [Queue.push_ram, hwf.slotAddr_wr, Memory.read_write_same]
  rw [Queue.slotBytes, Queue.push_slot b hslot, Slot.pushed_cnt hcap hlt, List.range_succ, List.map_append]
  simp only [haddr, List.map_cons, List.map_nil, hnew, Queue.slotBytes]
  exact congrArg (· ++ [some b]) (List.map_congr_left fun i hi => hold i (List.mem_range.1 hi))

/-! ## Appending a sequence of bytes -/

/-- `q'` is `q` with `bytes` appended to slot `j` and nothing else changed but RAM bytes of that slot. -/
structure Queue.Appended (g : QueueParams) (j : Nat) (bytes : List Byte) (q q' : Queue) : Prop where
  slots_length : q'.slots.length = q.slots.length
  /-- R14 is kept -/
  slot_wf : (q'.slot j).Wf g.cap
  cnt : (q'.slot j).cnt.toNat = (q.slot j).cnt.toNat + bytes.length
  slotBytes : q'.slotBytes g j = q.slotBytes g j ++ bytes.map some
  other_slots : ∀ k, k ≠ j → q'.slot k = q.slot k
  other_bytes : ∀ a, ¬ (j * g.cap ≤ a ∧ a < (j + 1) * g.cap) → q'.ram.read a = q.ram.read a
  arbiter : q'.arbiter = q.arbiter
  wHeld : q'.wHeld = q.wHeld
  rHeld : q'.rHeld = q.rHeld

theorem Queue.Appended.nil {g : QueueParams} {j : Nat} {q : Queue} (h : (q.slot j).Wf g.cap) :
    Queue.Appended g j [] q q where
  slots_length := rfl
  slot_wf := h
  cnt := rfl
  slotBytes := (List.append_nil _).symm
  other_slots _ _ := rfl
  other_bytes _ _ := rfl
  arbiter := rfl
  wHeld := rfl
  rHeld := rfl

theorem Queue.Appended.append {g : QueueParams} {j : Nat} {bs cs : List Byte} {q q' q'' : Queue}
    (h : Queue.Appended g j bs q q') (h' : Queue.Appended g j cs q' q'') : Queue.Appended g j (bs ++ cs) q q'' where
  slots_length := h'.slots_length.trans h.slots_length
  slot_wf := h'.slot_wf
  cnt := by rw [h'.cnt, h.cnt, List.length_append, Nat.add_assoc]
  slotBytes := by rw [h'.slotBytes, h.slotBytes, List.map_append, List.append_assoc]
  other_slots k hk := (h'.other_slots k hk).trans (h.other_slots k hk)
  other_bytes a ha := (h'.other_bytes a ha).trans (h.other_bytes a ha)
  arbiter := h'.arbiter.trans h.arbiter
  wHeld := h'.wHeld.trans h.wHeld
  rHeld := h'.rHeld.trans h.rHeld

theorem Queue.appended_push {g : QueueParams} {j : Nat} {q : Queue} (b : Byte) (hcap : g.cap ≤ 65535)
    (hslot : j < q.slots.length) (hwf : (q.slot j).Wf g.cap) (hlt : (q.slot j).cnt.toNat < g.cap) :
    Queue.Appended g j [b] q (q.push g j b) where
  slots_length := Queue.push_slots_length g q j b
  slot_wf := by
    rw [Queue.push_slot b hslot]
    exact hwf.pushed hcap hlt
  cnt := by
    rw [Queue.push_slot b hslot]
    exact Slot.pushed_cnt hcap hlt
  slotBytes := Queue.push_slotBytes b hcap hslot hwf hlt
  other_slots k := Queue.push_slot_other g q j k b
  other_bytes a ha := by
    obtain ⟨-, -, hwr, -⟩ := hwf
    refine Memory.read_write_other _ _ _ _ fun heq => ha ?_
    rw [heq]
    exact slotAddr_region hwr
  arbiter := rfl
  wHeld := rfl
  rHeld := rfl

/-! ## CB_WriteBlock -/

/-- CB_WriteBlock makes its first call, then the calls for the rest (R65). -/
theorem cbWriteBlock_cons {g : QueueParams} {j : Nat} {b : Byte} {rest : List Byte} {q q' : Queue} {r : Reply}
    {sts : List Status} (hb : cbAddByte g j b q = .ok r) (hrest : cbWriteBlock g j rest r.q = .ok (sts, q')) :
    cbWriteBlock g j (b :: rest) q = .ok (r.st :: sts, q') := by
  simp [cbWriteBlock, hb, hrest]

/-- On a full slot every call answers FULL and the queue stays. -/
theorem cbWriteBlock_of_full {g : QueueParams} {j : Nat} {q : Queue} (hfull : (q.slot j).cnt.toNat = g.cap)
    (bytes : List Byte) : cbWriteBlock g j bytes q = .ok (List.replicate bytes.length .full, q) := by
  induction bytes with
  | nil => rfl
  | cons b rest ih => exact cbWriteBlock_cons (cbAddByte_of_full b hfull) ih

/-- CB_WriteBlock on a slot with room for `room` more bytes: OK and one byte appended as long as there is room, then FULL
(R65). -/
theorem cbWriteBlock_appends {g : QueueParams} {j : Nat} (hcap : g.cap ≤ 65535) (hj : j < g.n) (bytes : List Byte)
    {q : Queue} {room : Nat} (hslot : j < q.slots.length) (hwf : (q.slot j).Wf g.cap)
    (hroom : (q.slot j).cnt.toNat + room = g.cap) :
    ∃ q', cbWriteBlock g j bytes q =
        .ok (List.replicate (min bytes.length room) .ok ++ List.replicate (bytes.length - room) .full, q') ∧
      Queue.Appended g j (bytes.take room) q q' := by
  induction bytes generalizing q room with
  | nil => exact ⟨q, by simp [cbWriteBlock], by simpa using .nil hwf⟩
  | cons b rest ih =>
    cases room with
    | zero => exact ⟨q, by simpa using cbWriteBlock_of_full hroom (b :: rest), .nil hwf⟩
    | succ room =>
      have hlt : (q.slot j).cnt.toNat < g.cap := by omega
      have hpush := Queue.appended_push b hcap hslot hwf hlt
      have hroom' : ((q.push g j b).slot j).cnt.toNat + room = g.cap := by
        rw [hpush.cnt, List.length_singleton]
        omega
      obtain ⟨q', hrun, happ⟩ := ih (hslot.trans_eq hpush.slots_length.symm) hpush.slot_wf hroom'
      refine ⟨q', ?_, hpush.append happ⟩
      rw [cbWriteBlock_cons (cbAddByte_of_lt b hj hwf hlt) hrun, List.length_cons, Nat.add_min_add_right,
        List.replicate_succ, Nat.add_sub_add_right, List.cons_append]

/-- Settles O51, with the room `CAP − cnt` of a slot that meets R14. -/
theorem writeBlockAppendsWhatFits : Obligations.WriteBlockAppendsWhatFits := by
  intro g q j bytes _ hcap hj hslot hwf m
  have hroom : (q.slot j).cnt.toNat + (g.cap - (q.slot j).cnt.toNat) = g.cap := Nat.add_sub_of_le hwf.1
  obtain ⟨q', hrun, happ⟩ := cbWriteBlock_appends hcap hj bytes hslot hwf hroom
  have hrest : bytes.length - m = bytes.length - (g.cap - (q.slot j).cnt.toNat) := by omega
  have htake : bytes.take m = bytes.take (g.cap - (q.slot j).cnt.toNat) :=
    (congrArg (bytes.take ·) (Nat.min_comm _ _)).trans List.take_eq_take_min.symm
  rw [hrest, htake]
  exact ⟨q', hrun, happ.slotBytes, happ.other_slots, happ.other_bytes, happ.arbiter, happ.wHeld, happ.rHeld⟩

end Sys2Proof.Machine
end

section
/-! The commands of the producer port P_B (R67 to R72): each is its rule within the frame of R106, and the rule ends in
a response, a hold or a fault of P_B. -/

namespace Sys2Proof.Machine

/-! ## The arms of the producer port -/

theorem exec_acqw (s : State) : exec .acqw s = command .acqw s (acquireWriteSlot s .hold) := rfl
theorem exec_relw (s : State) : exec .relw s = execRelw s := rfl
theorem exec_addb (b : Byte) (s : State) :
    exec (.addb b) s = writeAccess (.addb b) s (cbAddByte · · b) := rfl
theorem exec_wfull (s : State) : exec .wfull s = writeAccess .wfull s (fun g j q => .ok (cbIsFull g j q)) := rfl
theorem exec_wempty (s : State) : exec .wempty s = writeAccess .wempty s (fun _ j q => .ok (cbIsEmpty j q)) :=
  rfl

/-! ## The words that P_B gives -/

/-- FAULT after the held-state faults of P_B (R24, R105). -/
theorem faultWord_pb :
    faultWord .pb .acqwWhileHeld = 0xB001#16 ∧ faultWord .pb .relwNotHeld = 0xB002#16 ∧
      faultWord .pb .waccessNotHeld = 0xB003#16 := by decide

/-- The response (OK, b) is the byte itself, extended by zeros (R48, R49). -/
theorem responseWord_ok (b : Byte) : responseWord .ok b = 0x00#8 ++ b :=
  congrArg (fun upper : BitVec 8 => upper ++ b) (show 0#6 ++ Status.code .ok = 0x00#8 by decide)

theorem responseWord_flagByte (c : Bool) : responseWord .ok (flagByte c) = okWord c := by
  cases c <;> decide

/-- The word of ADDB b: opcode 3, then the byte (R47, R50). -/
theorem encode_addb (b : Byte) : encode (.addb b) = 0x30#8 ++ b :=
  congrArg (fun upper : BitVec 8 => upper ++ b) (show 0x3#4 ++ 0#4 = 0x30#8 by decide)

/-! ## The frame on P_B -/

/-- A command that is legal with TIMED_ACQUIRE absent is legal with it present too (R52 (e)). -/
theorem legalOn_of_absent {p : Port} {i : Instr} (timed : Bool) (h : legalOn false p i = true) :
    legalOn timed p i = true := by
  simp_all [legalOn]

section Frame

variable {i : Instr} {s : State} (hrun : s.halted = false) (hport : s.turn.port = .pb)
  (hlegal : legalOn s.cfg.timedAcquire .pb i = true)

include hrun hport hlegal

/-- On a running block the rule of a producer command decides (R106). -/
theorem command_pb (a : Action) : command i s a = conclude i s a :=
  command_legal i s a hrun (by rwa [hport])

theorem command_pb_raise (c : FaultCode) :
    command i s (.raise c) = .next { s with fault := faultWord .pb c, fcmd := encode i } := by
  rw [command_pb hrun hport hlegal, conclude_raise, hport]
  rfl

theorem command_pb_respond (st : Status) (d : Byte) (t : State) :
    command i s (.respond st d t) = .next { t with portPB := { cmd := none, rsp := some (responseWord st d) } } := by
  rw [command_pb hrun hport hlegal, conclude_respond, hport]
  rfl

/-- An access without a held write slot faults (R70 to R72). -/
theorem writeAccess_of_not_held (op : QueueParams → Nat → Queue → Except Fault Reply)
    (hheld : s.queueB.wHeld = false) :
    writeAccess i s op = .next { s with fault := 0xB003#16, fcmd := encode i } := by
  obtain ⟨-, -, hword⟩ := faultWord_pb
  rw [writeAccess, if_neg (by simp [hheld]), command_pb_raise hrun hport hlegal, hword]

/-- An access to the held write slot answers what the slot operation does (R70 to R72). -/
theorem writeAccess_of_held (op : QueueParams → Nat → Queue → Except Fault Reply) {r : Reply}
    (hheld : s.queueB.wHeld = true) (hop : op s.cfg.b (s.queueB.writeSlot s.cfg.b) s.queueB = .ok r) :
    writeAccess i s op =
      .next { s with
        queueB := r.q, portPB := { cmd := none, rsp := some (responseWord r.st r.value) } } := by
  rw [writeAccess, if_pos hheld, hop]
  exact command_pb_respond hrun hport hlegal r.st r.value { s with queueB := r.q }

/-- A predicate of the held write slot answers (OK, 1) or (OK, 0) and leaves the queue as it is (R60, R61). -/
theorem writeAccess_predicate {op : QueueParams → Nat → Queue → Except Fault Reply} {c : Bool}
    (hheld : s.queueB.wHeld = true)
    (hop : op s.cfg.b (s.queueB.writeSlot s.cfg.b) s.queueB = .ok { st := .ok, value := flagByte c, q := s.queueB }) :
    writeAccess i s op = .next { s with portPB := { cmd := none, rsp := some (okWord c) } } := by
  rw [writeAccess_of_held hrun hport hlegal op hheld hop, responseWord_flagByte]

end Frame

/-! ## Acquiring and releasing the write slot -/

theorem acquireWriteSlot_of_held {s : State} (unavailable : Action) (hheld : s.queueB.wHeld = true) :
    acquireWriteSlot s unavailable = .raise .acqwWhileHeld := by
  simp [acquireWriteSlot, hheld]

theorem acquireWriteSlot_of_available {s : State} (unavailable : Action) (hheld : s.queueB.wHeld = false)
    (hfree : s.queueB.canAcquireWrite s.cfg.b = true) :
    acquireWriteSlot s unavailable = .respond .ok 0 { s with queueB := s.queueB.acquireWrite } := by
  simp [acquireWriteSlot, hheld, hfree]

theorem acquireWriteSlot_of_unavailable {s : State} (unavailable : Action) (hheld : s.queueB.wHeld = false)
    (hfree : s.queueB.canAcquireWrite s.cfg.b = false) : acquireWriteSlot s unavailable = unavailable := by
  simp [acquireWriteSlot, hheld, hfree]

theorem Queue.canAcquireWrite_semaphore {q : Queue} {c : Semaphores} (g : QueueParams)
    (ha : q.arbiter = .semaphore c) : q.canAcquireWrite g = true ↔ c.semW ≠ 0 := by
  simp [Queue.canAcquireWrite, ha, Nat.pos_iff_ne_zero, ← BitVec.toNat_inj]

theorem Queue.acquireWrite_semaphore {q : Queue} {c : Semaphores} (ha : q.arbiter = .semaphore c) :
    q.acquireWrite = { q with arbiter := .semaphore { c with semW := c.semW - 1 }, wHeld := true } := by
  simp [Queue.acquireWrite, ha]

theorem Queue.releaseWrite_semaphore {q : Queue} {c : Semaphores} (g : QueueParams) (ha : q.arbiter = .semaphore c) :
    q.releaseWrite g =
      { q with
        arbiter := .semaphore { c with wIdx := nextIndex g c.wIdx, semR := c.semR + 1 }, wHeld := false } := by
  simp [Queue.releaseWrite, ha]

/-- RELW without a held write slot faults, under either arbiter (R69, R85). -/
theorem exec_relw_of_not_held {s : State} (hrun : s.halted = false) (hport : s.turn.port = .pb)
    (hheld : s.queueB.wHeld = false) : exec .relw s = .next { s with fault := 0xB002#16, fcmd := 0x2000#16 } := by
  have hlegal : legalOn s.cfg.timedAcquire .pb .relw = true := legalOn_of_absent _ rfl
  obtain ⟨-, hword, -⟩ := faultWord_pb
  have hcmd : encode .relw = 0x2000#16 := by decide
  rw [exec_relw, execRelw, if_neg (by simp [hheld]), command_pb_raise hrun hport hlegal, hword, hcmd]

/-- RELW answers (OK, 0x00) and releases the write slot, under either arbiter (R69, R85). -/
theorem exec_relw_of_held {s : State} (hrun : s.halted = false) (hport : s.turn.port = .pb)
    (hheld : s.queueB.wHeld = true) :
    exec .relw s =
      .next { s with
        queueB := s.queueB.releaseWrite s.cfg.b, portPB := { cmd := none, rsp := some 0x0000#16 } } := by
  have hlegal : legalOn s.cfg.timedAcquire .pb .relw = true := legalOn_of_absent _ rfl
  rw [exec_relw, execRelw, if_pos hheld, command_pb_respond hrun hport hlegal, responseWord_ok]
  rfl

/-! ## The obligations -/

/-- Settles O15, case by case of AcquireWriteSlot: held, no slot available, a slot available. -/
theorem acqwAcquiresTheWriteSlot : Obligations.AcqwAcquiresTheWriteSlot := by
  intro s c hrun hport harb
  have hlegal : legalOn s.cfg.timedAcquire .pb .acqw = true := legalOn_of_absent _ rfl
  have havail := Queue.canAcquireWrite_semaphore s.cfg.b harb
  refine ⟨fun hheld => ?_, fun hheld hnone => ?_, fun hheld hsome => ?_⟩
  · obtain ⟨hword, -, -⟩ := faultWord_pb
    have hcmd : encode .acqw = 0x1000#16 := by decide
    rw [exec_acqw, acquireWriteSlot_of_held _ hheld, command_pb_raise hrun hport hlegal, hword, hcmd]
  · have hfree : s.queueB.canAcquireWrite s.cfg.b = false := Bool.eq_false_iff.2 fun hfree => havail.1 hfree hnone
    rw [exec_acqw, acquireWriteSlot_of_unavailable _ hheld hfree, command_pb hrun hport hlegal, conclude_hold]
  · rw [exec_acqw, acquireWriteSlot_of_available _ hheld (havail.2 hsome), command_pb_respond hrun hport hlegal,
      Queue.acquireWrite_semaphore harb, responseWord_ok]
    rfl

/-- Settles O16, from the two cases of RELW and what a release does to the counters of R15. -/
theorem relwHandsTheSlotOver : Obligations.RelwHandsTheSlotOver := by
  intro s c hrun hport harb
  refine ⟨exec_relw_of_not_held hrun hport, fun hheld => ?_⟩
  rw [exec_relw_of_held hrun hport hheld, Queue.releaseWrite_semaphore s.cfg.b harb, nextIndex]

/-- Settles O17, from the two cases of CB_AddByte: the slot is full, or takes the byte at its write cursor. -/
theorem addbAppendsTheByte : Obligations.AddbAppendsTheByte := by
  intro s b hrun hport g q j v
  have hlegal : legalOn s.cfg.timedAcquire .pb (.addb b) = true := legalOn_of_absent _ rfl
  refine ⟨fun hheld => ?_, fun hheld hfull => ?_, fun hheld hroom haddr => ?_⟩
  · rw [exec_addb, writeAccess_of_not_held hrun hport hlegal _ hheld, encode_addb]
  · have hword : responseWord .full 0 = 0x0100#16 := by decide
    have hadd := cbAddByte_of_full b hfull
    rw [exec_addb, writeAccess_of_held hrun hport hlegal (cbAddByte · · b) hheld hadd, hword]
  · have hadd := cbAddByte_appends g j b q hroom haddr
    rw [exec_addb, writeAccess_of_held hrun hport hlegal (cbAddByte · · b) hheld hadd, responseWord_ok]
    rfl

/-- Settles O19: WFULL is CB_IsFull on the held write slot. -/
theorem wfullTellsWhetherTheWriteSlotIsFull : Obligations.WfullTellsWhetherTheWriteSlotIsFull := by
  intro s hrun hport
  have hlegal : legalOn s.cfg.timedAcquire .pb .wfull = true := legalOn_of_absent _ rfl
  have hcmd : encode .wfull = 0x4000#16 := by decide
  refine ⟨fun hheld => ?_, fun hheld => ?_⟩
  · rw [exec_wfull, writeAccess_of_not_held hrun hport hlegal _ hheld, hcmd]
  · rw [exec_wfull]
    exact writeAccess_predicate hrun hport hlegal hheld rfl

/-- Settles O20: WEMPTY is CB_IsEmpty on the held write slot. -/
theorem wemptyTellsWhetherTheWriteSlotIsEmpty : Obligations.WemptyTellsWhetherTheWriteSlotIsEmpty := by
  intro s hrun hport
  have hlegal : legalOn s.cfg.timedAcquire .pb .wempty = true := legalOn_of_absent _ rfl
  have hcmd : encode .wempty = 0x5000#16 := by decide
  refine ⟨fun hheld => ?_, fun hheld => ?_⟩
  · rw [exec_wempty, writeAccess_of_not_held hrun hport hlegal _ hheld, hcmd]
  · rw [exec_wempty]
    exact writeAccess_predicate hrun hport hlegal hheld rfl

end Sys2Proof.Machine
end

section
/-! The commands of the consumer ports C_A and C_B (R74 to R80): each is its rule within the frame of R106, on the queue
of its port, and the rule ends in a response, a hold or a fault of that port. -/

namespace Sys2Proof.Machine

/-! ## The arms of the consumer ports -/

theorem exec_acqr (s : State) : exec .acqr s = execAcqr s := rfl
theorem exec_remb (s : State) : exec .remb s = readAccess .remb s cbRemoveByte := rfl
theorem exec_peek (s : State) : exec .peek s = readAccess .peek s cbPeekByte := rfl
theorem exec_rfull (s : State) : exec .rfull s = readAccess .rfull s (fun g j q => .ok (cbIsFull g j q)) := rfl
theorem exec_rempty (s : State) : exec .rempty s = readAccess .rempty s (fun _ j q => .ok (cbIsEmpty j q)) := rfl

/-! ## The consumer port of a queue -/

/-- Port `p` is the consumer port of queue `x` (R45). -/
def ConsumerPort (p : Port) (x : QueueId) : Prop := (p = .ca ∧ x = .a) ∨ (p = .cb ∧ x = .b)

theorem ConsumerPort.queueOf_eq {p : Port} {x : QueueId} (hc : ConsumerPort p x) : queueOf p = x := by
  obtain ⟨rfl, rfl⟩ | ⟨rfl, rfl⟩ := hc <;> rfl

/-- A command that the two consumer ports have in common is legal on either, whatever TIMED_ACQUIRE is (R52 (c), (e)). -/
theorem ConsumerPort.legalOn {p : Port} {x : QueueId} {i : Instr} (hc : ConsumerPort p x) (timed : Bool)
    (hi : ∀ r ∈ [Port.ca, Port.cb], legalOn false r i = true) : legalOn timed p i = true := by
  obtain ⟨rfl, -⟩ | ⟨rfl, -⟩ := hc
  · exact legalOn_of_absent timed (hi .ca (by decide))
  · exact legalOn_of_absent timed (hi .cb (by decide))

/-- FAULT after the held-state faults of a consumer port (R24, R105). -/
theorem ConsumerPort.faultWord_eq {p : Port} {x : QueueId} (hc : ConsumerPort p x) :
    faultWord p .acqrWhileHeld = (if p = .ca then 0xA004#16 else 0xC004#16) ∧
      faultWord p .raccessNotHeld = (if p = .ca then 0xA006#16 else 0xC006#16) := by
  obtain ⟨rfl, -⟩ | ⟨rfl, -⟩ := hc <;> decide

/-! ## The frame on a consumer port -/

section ConsumerFrame

variable {i : Instr} {s : State} {p : Port} {x : QueueId} (hrun : s.halted = false) (hport : s.turn.port = p)
  (hlegal : legalOn s.cfg.timedAcquire p i = true)

include hrun hport hlegal

/-- On a running block the rule of a command that is legal on the scheduled port decides (R106). -/
theorem command_on (a : Action) : command i s a = conclude i s a :=
  command_legal i s a hrun (by rwa [hport])

theorem command_on_raise (c : FaultCode) :
    command i s (.raise c) = .next { s with fault := faultWord p c, fcmd := encode i } := by
  rw [command_on hrun hport hlegal, conclude_raise, hport, State.raise]

theorem command_on_respond (st : Status) (d : Byte) (t : State) :
    command i s (.respond st d t) = .next (t.setPort p { cmd := none, rsp := some (responseWord st d) }) := by
  rw [command_on hrun hport hlegal, conclude_respond, hport, State.answer]

/-- An access without a held read slot faults (R77 to R80). -/
theorem readAccess_of_not_held (op : QueueParams → Nat → Queue → Except Fault Reply) (hc : ConsumerPort p x)
    (hheld : (s.queue x).rHeld = false) :
    readAccess i s op = .next { s with fault := if p = .ca then 0xA006#16 else 0xC006#16, fcmd := encode i } := by
  obtain ⟨-, hword⟩ := hc.faultWord_eq
  rw [readAccess, State.consumed, hport, hc.queueOf_eq, if_neg (by simp [hheld]),
    command_on_raise hrun hport hlegal, hword]

/-- An access to the held read slot answers what the slot operation does (R77 to R80). -/
theorem readAccess_of_held {op : QueueParams → Nat → Queue → Except Fault Reply} {r : Reply} (hc : ConsumerPort p x)
    (hheld : (s.queue x).rHeld = true)
    (hop : op (s.cfg.queue x) ((s.queue x).readSlot (s.cfg.queue x)) (s.queue x) = .ok r) :
    readAccess i s op =
      .next ((s.setQueue x r.q).setPort p { cmd := none, rsp := some (responseWord r.st r.value) }) := by
  rw [readAccess, State.consumed, hport, hc.queueOf_eq, if_pos hheld, hop]
  exact command_on_respond hrun hport hlegal r.st r.value (s.setQueue x r.q)

/-- An access that leaves the queue as it is changes the port alone (R60, R61, R64; R63 with no byte left). -/
theorem readAccess_same_queue {op : QueueParams → Nat → Queue → Except Fault Reply} {st : Status} {d : Byte}
    (hc : ConsumerPort p x) (hheld : (s.queue x).rHeld = true)
    (hop : op (s.cfg.queue x) ((s.queue x).readSlot (s.cfg.queue x)) (s.queue x) =
      .ok { st := st, value := d, q := s.queue x }) :
    readAccess i s op = .next (s.setPort p { cmd := none, rsp := some (responseWord st d) }) := by
  rw [readAccess_of_held hrun hport hlegal hc hheld hop, State.setQueue_self]

/-- A predicate of the held read slot answers (OK, 1) or (OK, 0) and changes the port alone (R60, R61). -/
theorem readAccess_predicate {op : QueueParams → Nat → Queue → Except Fault Reply} {c : Bool}
    (hc : ConsumerPort p x) (hheld : (s.queue x).rHeld = true)
    (hop : op (s.cfg.queue x) ((s.queue x).readSlot (s.cfg.queue x)) (s.queue x) =
      .ok { st := .ok, value := flagByte c, q := s.queue x }) :
    readAccess i s op = .next (s.setPort p { cmd := none, rsp := some (okWord c) }) := by
  rw [readAccess_same_queue hrun hport hlegal hc hheld hop, responseWord_flagByte]

end ConsumerFrame

/-! ## Removing and peeking at the oldest byte -/

/-- The response (EMPTY, 0x00) (R48, R49). -/
theorem responseWord_empty : responseWord .empty 0 = 0x0200#16 := by decide

section OldestByte

variable {g : QueueParams} {j : Nat} {q : Queue}

theorem cbRemoveByte_of_empty (hempty : (q.slot j).cnt.toNat = 0) :
    cbRemoveByte g j q = .ok { st := .empty, value := 0, q := q } := by
  simp [cbRemoveByte, slotEmpty, hempty]

theorem cbPeekByte_of_empty (hempty : (q.slot j).cnt.toNat = 0) :
    cbPeekByte g j q = .ok { st := .empty, value := 0, q := q } := by
  simp [cbPeekByte, slotEmpty, hempty]

variable {b : Byte} (hsome : (q.slot j).cnt.toNat ≠ 0) (haddr : slotAddr g j (q.slot j).rd.toNat < ramSize g)
  (hbyte : q.ram.read (slotAddr g j (q.slot j).rd.toNat) = some b)

include hsome haddr hbyte

theorem cbRemoveByte_removes :
    cbRemoveByte g j q =
      .ok { st := .ok,
            value := b,
            q := q.setSlot j { q.slot j with rd := nextCursor g (q.slot j).rd, cnt := (q.slot j).cnt - 1 } } := by
  have hread := (ramRead_ok g q _ b).2 ⟨haddr, hbyte⟩
  simp [cbRemoveByte, slotEmpty, hsome, hread]

theorem cbPeekByte_reads : cbPeekByte g j q = .ok { st := .ok, value := b, q := q } := by
  have hread := (ramRead_ok g q _ b).2 ⟨haddr, hbyte⟩
  simp [cbPeekByte, slotEmpty, hsome, hread]

end OldestByte

/-! ## Acquiring the read slot -/

theorem Queue.canAcquireRead_semaphore {q : Queue} {c : Semaphores} (g : QueueParams)
    (ha : q.arbiter = .semaphore c) : q.canAcquireRead g = true ↔ c.semR ≠ 0 := by
  simp [Queue.canAcquireRead, ha, Nat.pos_iff_ne_zero, ← BitVec.toNat_inj]

theorem Queue.acquireRead_semaphore {q : Queue} {c : Semaphores} (ha : q.arbiter = .semaphore c) :
    q.acquireRead = { q with arbiter := .semaphore { c with semR := c.semR - 1 }, rHeld := true } := by
  simp [Queue.acquireRead, ha]

section AcquireRead

variable {s : State} {p : Port} {x : QueueId} (hrun : s.halted = false) (hport : s.turn.port = p)
  (hc : ConsumerPort p x)

include hrun hport hc

/-- ACQR while the read slot is held faults, under either arbiter (R75, R84). -/
theorem exec_acqr_of_held (hheld : (s.queue x).rHeld = true) :
    exec .acqr s = .next { s with fault := if p = .ca then 0xA004#16 else 0xC004#16, fcmd := 0x8000#16 } := by
  have hcmd : encode .acqr = 0x8000#16 := by decide
  obtain ⟨hword, -⟩ := hc.faultWord_eq
  rw [exec_acqr, execAcqr, State.consumed, hport, hc.queueOf_eq, if_pos hheld,
    command_on_raise hrun hport (hc.legalOn _ (by decide)), hword, hcmd]

/-- ACQR with no slot available holds, under either arbiter (R75, R84). -/
theorem exec_acqr_of_unavailable (hheld : (s.queue x).rHeld = false)
    (hnone : (s.queue x).canAcquireRead (s.cfg.queue x) = false) : exec .acqr s = .next s := by
  rw [exec_acqr, execAcqr, State.consumed, hport, hc.queueOf_eq, if_neg (by simp [hheld]), if_neg (by simp [hnone]),
    command_on hrun hport (hc.legalOn _ (by decide)), conclude_hold]

/-- ACQR answers (OK, 0x00) and acquires an available slot, under either arbiter (R75, R84). -/
theorem exec_acqr_of_available (hheld : (s.queue x).rHeld = false)
    (hsome : (s.queue x).canAcquireRead (s.cfg.queue x) = true) :
    exec .acqr s =
      .next ((s.setQueue x (s.queue x).acquireRead).setPort p { cmd := none, rsp := some 0x0000#16 }) := by
  rw [exec_acqr, execAcqr, State.consumed, hport, hc.queueOf_eq, if_neg (by simp [hheld]), if_pos hsome,
    command_on_respond hrun hport (hc.legalOn _ (by decide)), responseWord_ok]
  rfl

end AcquireRead

/-! ## The obligations -/

/-- Settles O22, case by case of AcquireReadSlot: held, no slot filled, a slot filled. -/
theorem acqrAcquiresTheOldestFilledSlot : Obligations.AcqrAcquiresTheOldestFilledSlot := by
  intro s p x c hrun hport hc harb
  have havail := Queue.canAcquireRead_semaphore (s.cfg.queue x) harb
  refine ⟨exec_acqr_of_held hrun hport hc, fun hheld hnone => ?_, fun hheld hsome => ?_⟩
  · exact exec_acqr_of_unavailable hrun hport hc hheld (Bool.eq_false_iff.2 fun hfilled => havail.1 hfilled hnone)
  · rw [exec_acqr_of_available hrun hport hc hheld (havail.2 hsome), Queue.acquireRead_semaphore harb]

/-- Settles O24, from the two cases of CB_RemoveByte: the slot is empty, or gives the byte at its read cursor. -/
theorem rembRemovesTheOldestByte : Obligations.RembRemovesTheOldestByte := by
  intro s p x hrun hport (hc : ConsumerPort p x) g q j v
  have hlegal : legalOn s.cfg.timedAcquire p .remb = true := hc.legalOn _ (by decide)
  have hcmd : encode .remb = 0xA000#16 := by decide
  refine ⟨fun hheld => ?_, fun hheld hempty => ?_, fun hheld hsome haddr b hbyte => ?_⟩
  · rw [exec_remb, readAccess_of_not_held hrun hport hlegal _ hc hheld, hcmd]
  · have hremove := cbRemoveByte_of_empty (g := g) hempty
    rw [exec_remb, readAccess_same_queue hrun hport hlegal hc hheld hremove, responseWord_empty]
  · have hremove := cbRemoveByte_removes hsome haddr hbyte
    rw [exec_remb, readAccess_of_held hrun hport hlegal hc hheld hremove, responseWord_ok]
    rfl

/-- Settles O25, from the two cases of CB_PeekByte: the slot is empty, or shows the byte at its read cursor. -/
theorem peekReturnsTheOldestByte : Obligations.PeekReturnsTheOldestByte := by
  intro s p x hrun hport (hc : ConsumerPort p x) g q j v
  have hlegal : legalOn s.cfg.timedAcquire p .peek = true := hc.legalOn _ (by decide)
  have hcmd : encode .peek = 0xB000#16 := by decide
  refine ⟨fun hheld => ?_, fun hheld hempty => ?_, fun hheld hsome haddr b hbyte => ?_⟩
  · rw [exec_peek, readAccess_of_not_held hrun hport hlegal _ hc hheld, hcmd]
  · have hpeek := cbPeekByte_of_empty (g := g) hempty
    rw [exec_peek, readAccess_same_queue hrun hport hlegal hc hheld hpeek, responseWord_empty]
  · have hpeek := cbPeekByte_reads hsome haddr hbyte
    rw [exec_peek, readAccess_same_queue hrun hport hlegal hc hheld hpeek, responseWord_ok]

/-- Settles O26: RFULL is CB_IsFull on the held read slot. -/
theorem rfullTellsWhetherTheReadSlotIsFull : Obligations.RfullTellsWhetherTheReadSlotIsFull := by
  intro s p x hrun hport (hc : ConsumerPort p x)
  have hlegal : legalOn s.cfg.timedAcquire p .rfull = true := hc.legalOn _ (by decide)
  have hcmd : encode .rfull = 0xC000#16 := by decide
  refine ⟨fun hheld => ?_, fun hheld => ?_⟩
  · rw [exec_rfull, readAccess_of_not_held hrun hport hlegal _ hc hheld, hcmd]
  · rw [exec_rfull]
    exact readAccess_predicate hrun hport hlegal hc hheld rfl

/-- Settles O27: REMPTY is CB_IsEmpty on the held read slot. -/
theorem remptyTellsWhetherTheReadSlotIsEmpty : Obligations.RemptyTellsWhetherTheReadSlotIsEmpty := by
  intro s p x hrun hport (hc : ConsumerPort p x)
  have hlegal : legalOn s.cfg.timedAcquire p .rempty = true := hc.legalOn _ (by decide)
  have hcmd : encode .rempty = 0xD000#16 := by decide
  refine ⟨fun hheld => ?_, fun hheld => ?_⟩
  · rw [exec_rempty, readAccess_of_not_held hrun hport hlegal _ hc hheld, hcmd]
  · rw [exec_rempty]
    exact readAccess_predicate hrun hport hlegal hc hheld rfl

end Sys2Proof.Machine
end

section
/-! PBYTE (R90): it holds while a frame is pending, and else answers (OK, 0x00) with the parser that the rule of its state
gives (R92 to R98). In a good state that rule never stops (R104). -/

namespace Sys2Proof.Machine

/-! ## The frame of PBYTE on port I -/

theorem exec_pbyte (b : Byte) (s : State) : exec (.pbyte b) s = execPbyte b s := rfl

section PbyteFrame

variable {s : State} {b : Byte} (hrun : s.halted = false) (hport : s.turn.port = .i)

include hrun hport

theorem exec_pbyte_of_pending (hpend : s.parser.pend = true) : exec (.pbyte b) s = .next s := by
  have hlegal : legalOn s.cfg.timedAcquire .i (.pbyte b) = true := legalOn_of_absent _ rfl
  rw [exec_pbyte, execPbyte, if_pos hpend, command_on hrun hport hlegal, conclude_hold]

theorem exec_pbyte_of_input {p : Parser} (hpend : s.parser.pend = false) (hin : s.parser.input b = .ok p) :
    exec (.pbyte b) s = .next { s with parser := p, portI := { cmd := none, rsp := some 0x0000#16 } } := by
  have hlegal : legalOn s.cfg.timedAcquire .i (.pbyte b) = true := legalOn_of_absent _ rfl
  rw [exec_pbyte, execPbyte, if_neg (by simp [hpend]), hin]
  exact command_on_respond hrun hport hlegal .ok 0 { s with parser := p }

end PbyteFrame

/-! ## One input byte, state by state -/

section Input

variable {p : Parser} {b : Byte}

/-- PREAMBLE_1 starts an attempt, in AwaitPreamble1 as in ErrorRecovery (R92, R98). -/
theorem Parser.input_start (hst : p.st = .awaitPreamble1 ∨ p.st = .errorRecovery) :
    p.input 0x03 = .ok { p with csum := 0x03, st := .awaitPreamble2 } := by
  obtain hst | hst := hst
  · rw [Parser.input, hst]
    rfl
  · rw [Parser.input, hst]
    rfl

theorem Parser.input_badPreamble1 (hst : p.st = .awaitPreamble1) (hb : b ≠ 0x03) :
    p.input b = .ok (p.fail .badPreamble1) := by
  rw [Parser.input, hst]
  exact congrArg Except.ok (if_neg hb)

theorem Parser.input_preamble2 (hst : p.st = .awaitPreamble2) :
    p.input 0xAF = .ok { p with csum := p.csum ^^^ 0xAF, st := .awaitPreamble3 } := by
  rw [Parser.input, hst]
  rfl

theorem Parser.input_badPreamble2 (hst : p.st = .awaitPreamble2) (hb : b ≠ 0xAF) :
    p.input b = .ok (p.fail .badPreamble2) := by
  rw [Parser.input, hst]
  exact congrArg Except.ok (if_neg hb)

theorem Parser.input_preamble3 (hst : p.st = .awaitPreamble3) :
    p.input 0xEF = .ok { p with csum := p.csum ^^^ 0xEF, st := .awaitCommand } := by
  rw [Parser.input, hst]
  rfl

theorem Parser.input_badPreamble3 (hst : p.st = .awaitPreamble3) (hb : b ≠ 0xEF) :
    p.input b = .ok (p.fail .badPreamble3) := by
  rw [Parser.input, hst]
  exact congrArg Except.ok (if_neg hb)

theorem Parser.input_command (hst : p.st = .awaitCommand) :
    p.input b = .ok { p with csum := p.csum ^^^ b, st := .awaitLength } := by
  rw [Parser.input, hst]
  rfl

theorem Parser.input_noise (hst : p.st = .errorRecovery) (hb : b ≠ 0x03) : p.input b = .ok p := by
  rw [Parser.input, hst]
  exact congrArg Except.ok (if_neg hb)

/-- The parser once a payload byte is stored (R97); `Parser.input_payload` and `Parser.input_lastPayload` tie it to the
input step. -/
def Parser.store (b : Byte) (p : Parser) : Parser :=
  { p with data := p.data.write p.idx.toNat b, idx := BitVec.ofNat 8 (p.idx.toNat + 1), csum := p.csum ^^^ b }

section Payload

variable (hst : p.st = .collectPayload) (hidx : p.idx.toNat < payloadSize)

include hst hidx

theorem Parser.input_payload (hmore : p.idx.toNat + 1 + headerSize ≠ p.plen.toNat) :
    p.input b = .ok (p.store b) := by
  simp [Parser.input, hst, inputCollectPayload, payloadWrite, hidx, hmore, Parser.store]

theorem Parser.input_lastPayload (hlast : p.idx.toNat + 1 + headerSize = p.plen.toNat) :
    p.input b =
      .ok { (p.store b).emitFrame
              (if p.csum ^^^ b = 0 then zext16 p.plen else FramingError.checksumMismatch.length)
            with st := .awaitPreamble1 } := by
  simp [Parser.input, hst, inputCollectPayload, payloadWrite, hidx, hlast, Parser.store]

end Payload

/-- While the parser collects, `idx + 5 < plen ≤ 255` (R22 (a)): the byte has a place in the payload buffer. -/
theorem Parser.Wf.idx_lt (h : p.Wf) (hst : p.st = .collectPayload) : p.idx.toNat < payloadSize := by
  obtain ⟨-, hlt⟩ := h.collecting hst
  have hplen : p.plen.toNat < 256 := p.plen.isLt
  simp only [headerSize] at hlt
  simp only [payloadSize]
  omega

/-- A well-formed parser takes in any byte: only a payload byte can be out of place, and it never is. -/
theorem Parser.Wf.input_ok (h : p.Wf) (b : Byte) : ∃ t, p.input b = .ok t := by
  by_cases hst : p.st = .collectPayload
  · by_cases hlast : p.idx.toNat + 1 + headerSize = p.plen.toNat
    · exact ⟨_, Parser.input_lastPayload hst (h.idx_lt hst) hlast⟩
    · exact ⟨_, Parser.input_payload hst (h.idx_lt hst) hlast⟩
  · obtain ⟨t, ht, -⟩ := Parser.input_data b p hst
    exact ⟨t, ht⟩

end Input

/-- The length field of a success frame is the length byte, extended by zeros (R97). -/
theorem zext16_eq_append (v : Byte) : zext16 v = 0x00#8 ++ v := BitVec.setWidth_eq_append (by decide)

/-! ## The obligations -/

/-- Settles O40: a pending frame makes PBYTE hold; without one the well-formed parser takes in the byte and PBYTE answers. -/
theorem framingErrorsNeverStopTheParser : Obligations.FramingErrorsNeverStopTheParser := by
  intro s b hs hrun hport
  refine ⟨exec_pbyte_of_pending hrun hport, fun hpend => ?_⟩
  obtain ⟨p, hin⟩ := hs.parser_wf.input_ok b
  exact ⟨_, exec_pbyte_of_input hrun hport hpend hin, rfl, rfl, hrun⟩

/-- Settles O34, from the two cases of R92. -/
theorem pbyteInAwaitPreamble1 : Obligations.PbyteInAwaitPreamble1 := by
  intro s b hrun hport hpend hst
  refine ⟨fun hb => ?_, fun hb => ?_⟩
  · subst hb
    exact exec_pbyte_of_input hrun hport hpend (Parser.input_start (.inl hst))
  · exact exec_pbyte_of_input hrun hport hpend (Parser.input_badPreamble1 hst hb)

/-- Settles O35, from the two cases of R93 and the two of R94. -/
theorem pbyteInAwaitPreamble2And3 : Obligations.PbyteInAwaitPreamble2And3 := by
  intro s b hrun hport hpend
  refine ⟨fun hst => ⟨fun hb => ?_, fun hb => ?_⟩, fun hst => ⟨fun hb => ?_, fun hb => ?_⟩⟩
  · subst hb
    exact exec_pbyte_of_input hrun hport hpend (Parser.input_preamble2 hst)
  · exact exec_pbyte_of_input hrun hport hpend (Parser.input_badPreamble2 hst hb)
  · subst hb
    exact exec_pbyte_of_input hrun hport hpend (Parser.input_preamble3 hst)
  · exact exec_pbyte_of_input hrun hport hpend (Parser.input_badPreamble3 hst hb)

/-- Settles O36: R95 has one case. -/
theorem pbyteInAwaitCommand : Obligations.PbyteInAwaitCommand := by
  intro s b hrun hport hpend hst
  exact exec_pbyte_of_input hrun hport hpend (Parser.input_command hst)

/-- Settles O38: a byte before the last is stored, the last one also emits by the checksum; what the buffer holds after it is
read after write. -/
theorem pbyteInCollectPayload : Obligations.PbyteInCollectPayload := by
  intro s b hrun hport hpend hst hidx p c n stored
  have hlast_iff : (n : Int) = (p.plen.toNat : Int) - 5 ↔ p.idx.toNat + 1 + headerSize = p.plen.toNat := by
    simp only [n, headerSize]
    omega
  refine ⟨fun hmore => ?_, fun hlast hsum => ?_, fun hlast hsum => ?_, ?_, fun k hk => ?_⟩
  · exact exec_pbyte_of_input hrun hport hpend (Parser.input_payload hst hidx (mt hlast_iff.2 hmore))
  · have hin := Parser.input_lastPayload (b := b) hst hidx (hlast_iff.1 hlast)
    rw [if_pos hsum, zext16_eq_append] at hin
    exact exec_pbyte_of_input hrun hport hpend hin
  · have hin := Parser.input_lastPayload (b := b) hst hidx (hlast_iff.1 hlast)
    rw [if_neg hsum] at hin
    exact exec_pbyte_of_input hrun hport hpend hin
  · exact Memory.read_write_same _ _ _
  · exact Memory.read_write_other _ _ _ _ hk

/-- Settles O39, from the two cases of R98. -/
theorem pbyteInErrorRecovery : Obligations.PbyteInErrorRecovery := by
  intro s b hrun hport hpend hst
  refine ⟨fun hb => ?_, fun hb => ?_⟩
  · subst hb
    exact exec_pbyte_of_input hrun hport hpend (Parser.input_start (.inr hst))
  · exact exec_pbyte_of_input hrun hport hpend (Parser.input_noise hst hb)

end Sys2Proof.Machine
end

section
/-! EMIT (R100): the write slot of A is empty wherever one can be acquired (R19), the record of a pending frame fits it
(R5, R22, R101), and so all of the record is written there and handed over. -/

namespace Sys2Proof.Machine

/-! ## The write slot of a queue that can be acquired -/

theorem Queue.canAcquireWrite_grayCdc {g : QueueParams} {q : Queue} {p : GrayPointers} (hn : 1 ≤ g.n)
    (ha : q.arbiter = .grayCdc p) :
    q.canAcquireWrite g = true ↔ ((p.wPtr.toNat : Int) - (p.rPtrSyncW.toNat : Int)) % (2 * (g.n : Int)) < g.n := by
  rw [← pointerDistance_int g _ _ hn, Nat.cast_lt, Queue.canAcquireWrite, ha]
  exact decide_eq_true_iff

/-- The producer's view never falls short of the filled slots (R87). -/
theorem GrayPointers.Wf.filled_le_filledSeenByProducer {g : QueueParams} {p : GrayPointers} {wHeld rHeld : Bool}
    (h : p.Wf g wHeld rHeld) (hn : 1 ≤ g.n) : pointerDistance g p.wPtr p.rPtr ≤ p.filledSeenByProducer g := by
  have hF := h.pointerDistance_eq hn
  obtain ⟨_, hsum, _⟩ := h
  have hview := pointerDistance_add g p.wPtr p.rPtr p.rPtrSyncW (by omega)
  rw [GrayPointers.filledSeenByProducer, hview]
  exact Nat.le_add_right _ _

/-- A queue in which a write slot can be acquired has a slot that is not filled. -/
theorem Queue.ArbiterWf.filled_lt {g : QueueParams} {q : Queue} (h : q.ArbiterWf g) (hn : 1 ≤ g.n)
    (hfree : q.canAcquireWrite g = true) : q.filled g < g.n := by
  cases ha : q.arbiter with
  | semaphore c =>
    simp only [Queue.ArbiterWf, Queue.canAcquireWrite, Queue.filled, ha, decide_eq_true_eq] at h hfree ⊢
    obtain ⟨-, _, _, hsum, _⟩ := h
    omega
  | grayCdc p =>
    simp only [Queue.ArbiterWf, Queue.canAcquireWrite, Queue.filled, ha, decide_eq_true_eq] at h hfree ⊢
    obtain ⟨-, hp⟩ := h
    exact (hp.filled_le_filledSeenByProducer hn).trans_lt hfree

theorem Queue.ArbiterWf.writeSlot_lt {g : QueueParams} {q : Queue} (h : q.ArbiterWf g) (hn : 1 ≤ g.n) :
    q.writeSlot g < g.n := by
  rw [h.writeSlot_eq hn]
  exact Nat.mod_lt _ hn

/-- The write slot stands right after the filled ones, so until it is acquired it is one of the empty slots (R19). -/
theorem Queue.Wf.writeSlot_empty {g : QueueParams} {q : Queue} (h : q.Wf g) (hn : 1 ≤ g.n)
    (hheld : q.wHeld = false) (hfree : q.canAcquireWrite g = true) : q.slot (q.writeSlot g) = Slot.empty := by
  rw [h.arbiter_wf.writeSlot_eq hn]
  exact h.idle_slots_empty _ (h.arbiter_wf.filled_lt hn hfree) (by simp [hheld])

/-! ## Handing a slot over in one step -/

theorem Queue.handOver_semaphore {q : Queue} {c : Semaphores} (g : QueueParams) (ha : q.arbiter = .semaphore c) :
    (q.acquireWrite.releaseWrite g).arbiter =
      .semaphore { c with wIdx := nextIndex g c.wIdx, semR := c.semR + 1, semW := c.semW - 1 } := by
  rw [Queue.acquireWrite_semaphore ha, Queue.releaseWrite_semaphore g rfl]

theorem Queue.handOver_grayCdc {q : Queue} {p : GrayPointers} (g : QueueParams) (ha : q.arbiter = .grayCdc p) :
    (q.acquireWrite.releaseWrite g).arbiter = .grayCdc { p with wPtr := pointerAdvance g p.wPtr 1 } := by
  simp [Queue.acquireWrite, Queue.releaseWrite, ha]

theorem Queue.slot_congr {q q' : Queue} (hslots : q'.slots = q.slots) (k : Nat) : q'.slot k = q.slot k := by
  rw [Queue.slot, hslots, Queue.slot]

/-- The bytes of a slot depend on the slots and the RAM alone. -/
theorem Queue.slotBytes_congr {q q' : Queue} (hslots : q'.slots = q.slots) (hram : q'.ram = q.ram) (g : QueueParams)
    (j : Nat) : q'.slotBytes g j = q.slotBytes g j := by
  simp only [Queue.slotBytes, Queue.byteAddr, Queue.slot_congr hslots, hram]

/-! ## CB_WriteBlock into an empty slot -/

theorem cbWriteBlock_cons_ok {g : QueueParams} {j : Nat} {b : Byte} {rest : List Byte} {q q' : Queue}
    {sts : List Status} (h : cbWriteBlock g j (b :: rest) q = .ok (sts, q')) :
    ∃ r sts', cbAddByte g j b q = .ok r ∧ cbWriteBlock g j rest r.q = .ok (sts', q') := by
  cases hb : cbAddByte g j b q with
  | error f => simp [cbWriteBlock, hb] at h
  | ok r =>
    cases hrest : cbWriteBlock g j rest r.q with
    | error f => simp [cbWriteBlock, hb, hrest] at h
    | ok out =>
      obtain ⟨sts', q''⟩ := out
      simp only [cbWriteBlock, hb, hrest, Except.ok.injEq, Prod.mk.injEq] at h
      obtain ⟨-, rfl⟩ := h
      exact ⟨r, sts', rfl, hrest⟩

/-- An append does not move the oldest byte, so no byte of the slot gets another address. -/
theorem Queue.push_byteAddr {g : QueueParams} {j : Nat} {q : Queue} (b : Byte) (hslot : j < q.slots.length) (i : Nat) :
    (q.push g j b).byteAddr g j i = q.byteAddr g j i := by
  rw [Queue.byteAddr, Queue.push_slot b hslot, Slot.pushed_rd, Queue.byteAddr]

/-- CB_WriteBlock of n bytes leaves every byte alone but the n places after those that the slot counts. -/
theorem cbWriteBlock_read_other {g : QueueParams} {j a : Nat} (hcap : g.cap ≤ 65535) (hj : j < g.n) {bytes : List Byte}
    {q q' : Queue} {sts : List Status} (hrun : cbWriteBlock g j bytes q = .ok (sts, q')) (hslot : j < q.slots.length)
    (hwf : (q.slot j).Wf g.cap) (ha : ∀ k < bytes.length, a ≠ q.byteAddr g j ((q.slot j).cnt.toNat + k)) :
    q'.ram.read a = q.ram.read a := by
  induction bytes generalizing q sts with
  | nil =>
    obtain ⟨-, rfl⟩ : [] = sts ∧ q = q' := by simpa [cbWriteBlock] using hrun
    rfl
  | cons b rest ih =>
    obtain ⟨r, sts', hb, hrest⟩ := cbWriteBlock_cons_ok hrun
    obtain hfull | hlt := hwf.1.eq_or_lt
    · obtain rfl : { st := .full, value := 0, q := q } = r := by simpa [cbAddByte_of_full b hfull] using hb
      exact ih hrest hslot hwf fun k hk => ha k (Nat.lt_succ_of_lt hk)
    · obtain rfl : { st := .ok, value := b, q := q.push g j b } = r := by simpa [cbAddByte_of_lt b hj hwf hlt] using hb
      have hpush := Queue.appended_push b hcap hslot hwf hlt
      have hhead : a ≠ slotAddr g j (q.slot j).wr.toNat := by
        rw [hwf.slotAddr_wr]
        exact ha 0 (Nat.succ_pos _)
      calc q'.ram.read a
        _ = (q.push g j b).ram.read a := by
            refine ih hrest (hslot.trans_eq hpush.slots_length.symm) hpush.slot_wf fun k hk => ?_
            rw [Queue.push_byteAddr b hslot, hpush.cnt, List.length_singleton, Nat.add_assoc, Nat.add_comm 1 k]
            exact ha (k + 1) (Nat.succ_lt_succ hk)
        _ = q.ram.read a := by
            rw [Queue.push_ram]
            exact Memory.read_write_other _ _ _ _ hhead

theorem Slot.empty_wf {cap : Nat} (h : 1 ≤ cap) : Slot.empty.Wf cap := ⟨Nat.zero_le _, h, h, (Nat.zero_mod _).symm⟩

/-- CB_WriteBlock of as many bytes as fit into an empty slot: the slot holds exactly them, from its first address on. -/
theorem cbWriteBlock_of_empty {g : QueueParams} {j : Nat} {q : Queue} {bytes : List Byte} (hpos : 1 ≤ g.cap)
    (hcap : g.cap ≤ 65535) (hj : j < g.n) (hslot : j < q.slots.length) (hempty : q.slot j = Slot.empty)
    (hfit : bytes.length ≤ g.cap) :
    ∃ sts q', cbWriteBlock g j bytes q = .ok (sts, q') ∧ Queue.Appended g j bytes q q' ∧
      q'.slotBytes g j = bytes.map some ∧
      ∀ a, ¬ (j * g.cap ≤ a ∧ a < j * g.cap + bytes.length) → q'.ram.read a = q.ram.read a := by
  have hwf : (q.slot j).Wf g.cap := hempty ▸ Slot.empty_wf hpos
  have hcnt : (q.slot j).cnt.toNat = 0 := by rw [hempty]; rfl
  have hrd : (q.slot j).rd.toNat = 0 := by rw [hempty]; rfl
  have hroom : (q.slot j).cnt.toNat + g.cap = g.cap := by rw [hcnt, Nat.zero_add]
  obtain ⟨q', hrun, happ⟩ := cbWriteBlock_appends hcap hj bytes hslot hwf hroom
  rw [List.take_of_length_le hfit] at happ
  refine ⟨_, q', hrun, happ, ?_, fun a ha => ?_⟩
  · rw [happ.slotBytes, Queue.slotBytes, hcnt]
    rfl
  · refine cbWriteBlock_read_other hcap hj hrun hslot hwf fun k hk heq => ha ?_
    have haddr : q.byteAddr g j ((q.slot j).cnt.toNat + k) = j * g.cap + k := by
      rw [Queue.byteAddr, hcnt, hrd, Nat.zero_add, Nat.zero_add, Nat.mod_eq_of_lt (hk.trans_le hfit), slotAddr]
    rw [heq, haddr]
    omega

/-! ## The record of a pending frame -/

theorem readPayload_of_written {data : Memory} {k n : Nat} (hrange : k + n ≤ payloadSize)
    (hwritten : ∀ i < n, (data.read (k + i)).isSome = true) : ∃ bytes, readPayload data k n = .ok bytes := by
  induction n generalizing k with
  | zero => exact ⟨[], rfl⟩
  | succ n ih =>
    obtain ⟨v, hv⟩ := Option.isSome_iff_exists.1 (hwritten 0 (Nat.succ_pos n))
    have hread : payloadRead data k = .ok v := (payloadRead_ok data k v).2 ⟨by omega, hv⟩
    obtain ⟨rest, hrest⟩ := ih (k := k + 1) (by omega) fun i hi => by
      rw [Nat.add_assoc, Nat.add_comm 1 i]
      exact hwritten (i + 1) (Nat.succ_lt_succ hi)
    exact ⟨v :: rest, by simp [readPayload, hread, hrest]⟩

/-- A positive frame length is at most 255 (R22 (c)), so it leaves at most 250 payload bytes. -/
theorem legalFrameLength.toNat_le {len : Word} (h : legalFrameLength len) (hpos : 0 < len.toInt) : len.toNat ≤ 255 := by
  have hle : len.toInt ≤ 255 := by
    obtain herr | ⟨-, hle⟩ := h
    · simp only [List.mem_cons, List.not_mem_nil, or_false] at herr
      omega
    · exact hle
  have hcond := BitVec.toInt_eq_toNat_cond len
  split at hcond <;> omega

/-- The record of a pending frame can be read, and it is at most two length bytes and 250 payload bytes (R22, R101). -/
theorem Parser.Wf.record_ok {p : Parser} (h : p.Wf) (hpend : p.pend = true) :
    ∃ bytes, record p.pendLen p.data = .ok bytes ∧ bytes.length ≤ 252 := by
  by_cases hpos : 0 < p.pendLen.toInt
  · have hlen := (h.pending_length hpend).toNat_le hpos
    have hrange : 0 + (p.pendLen.toNat - headerSize) ≤ payloadSize := by
      simp only [headerSize, payloadSize]
      omega
    obtain ⟨payload, hread⟩ := readPayload_of_written hrange fun i hi => by
      rw [Nat.zero_add]
      exact h.pending_data hpend hpos i hi
    obtain ⟨hcount, -⟩ := readPayload_ok _ _ _ _ hread
    refine ⟨hi8 p.pendLen :: lo8 p.pendLen :: payload, by simp [record, hpos, hread], ?_⟩
    simp only [List.length_cons, hcount, headerSize]
    omega
  · exact ⟨_, if_neg hpos, by simp⟩

/-! ## The step of EMIT -/

theorem State.emitEnabled_iff (s : State) :
    s.emitEnabled = true ↔ s.halted = false ∧ s.parser.pend = true ∧ s.queueA.canAcquireWrite s.cfg.a = true := by
  simp [State.emitEnabled, and_assoc]

theorem emitStep_of_disabled {s : State} (h : s.emitEnabled = false) : emitStep s = .next s :=
  if_neg (by simp [h])

theorem emitStep_of_enabled {s : State} {bytes : List Byte} {sts : List Status} {q : Queue} (h : s.emitEnabled = true)
    (hrec : record s.parser.pendLen s.parser.data = .ok bytes)
    (hrun : cbWriteBlock s.cfg.a (s.queueA.writeSlot s.cfg.a) bytes s.queueA = .ok (sts, q)) :
    emitStep s = .next { s with
      queueA := q.acquireWrite.releaseWrite s.cfg.a, parser := { s.parser with pend := false } } := by
  simp [emitStep, h, hrec, hrun]

/-- Settles O44: where EMIT is enabled the write slot of A is empty and takes the whole record, and the hand-over changes
neither the slots nor the RAM. -/
theorem emitMovesThePendingFrame : Obligations.EmitMovesThePendingFrame := by
  intro s hs g j acquirable
  obtain ⟨hn, -, hpos, hcap⟩ : 1 ≤ g.n ∧ g.n ≤ 256 ∧ 1 ≤ g.cap ∧ g.cap ≤ 65535 := Config.queue_range s.cfg .a
  have hacq : acquirable ↔ s.queueA.canAcquireWrite g = true := by
    cases harb : s.queueA.arbiter with
    | semaphore c => simpa only [acquirable, harb] using (Queue.canAcquireWrite_semaphore g harb).symm
    | grayCdc p => simpa only [acquirable, harb] using (Queue.canAcquireWrite_grayCdc hn harb).symm
  have henabled := s.emitEnabled_iff
  rw [← hacq] at henabled
  refine ⟨fun hdis => ?_, fun hrun hpend hfree => ?_⟩
  · refine emitStep_of_disabled (Bool.eq_false_iff.2 fun hen => ?_)
    obtain ⟨hrun, hpend, hfree⟩ := henabled.1 hen
    simp [hrun, hpend, hfree] at hdis
  · have hA := hs.queueA_wf
    have hj : j < g.n := hA.arbiter_wf.writeSlot_lt hn
    obtain ⟨bytes, hrec, hlen⟩ := hs.parser_wf.record_ok hpend
    obtain ⟨sts, q, hwrite, happ, hbytes, hother⟩ :=
      cbWriteBlock_of_empty hpos hcap hj (hj.trans_eq hA.slots_length.symm)
        (hA.writeSlot_empty hn hs.queueA_not_held (hacq.1 hfree)) (hlen.trans (Config.queueA_capacity s.cfg))
    have hslots : (q.acquireWrite.releaseWrite g).slots = q.slots := by simp
    have hram : (q.acquireWrite.releaseWrite g).ram = q.ram := by simp
    refine ⟨bytes, _, hrec, emitStep_of_enabled (henabled.2 ⟨hrun, hpend, hfree⟩) hrec hwrite, rfl, ?arbiter, ?wHeld,
      ?rHeld, ?length, ?record, fun k hk => ?slots, fun a ha => ?ram⟩
    case arbiter =>
      cases harb : s.queueA.arbiter with
      | semaphore c => exact Queue.handOver_semaphore g (happ.arbiter.trans harb)
      | grayCdc p => exact Queue.handOver_grayCdc g (happ.arbiter.trans harb)
    case wHeld => simp
    case rHeld => simpa using happ.rHeld
    case length => simpa using happ.slots_length
    case record => exact (Queue.slotBytes_congr hslots hram g j).trans hbytes
    case slots => exact (Queue.slot_congr hslots k).trans (happ.other_slots k hk)
    case ram => exact (congrArg (Memory.read · a) hram).trans (hother a ha)

end Sys2Proof.Machine
end

section
/-! Entering and leaving the halted state (R105, R107, R108). A running block becomes halted by a raise on the scheduled port
only, because no rule writes FAULT but by raising and each rule raises only codes of its own port. A halted block answers
every event but the block reset with the same FAULT and FCMD. -/

namespace Sys2Proof.Machine

/-! ## The codes that the commands of a port can raise -/

/-- No producer command belongs on a port other than P_B (R50). -/
theorem belongsOn_producer {i : Instr} {p : Port} (hi : i.belongsOn .pb = true) (hp : i.belongsOn p = true) : p = .pb := by
  cases p with
  | pb => rfl
  | i | ca | cb => cases i <;> simp [Instr.belongsOn] at hi hp

/-- No consumer command belongs on a port other than C_A and C_B (R50). -/
theorem belongsOn_consumer {i : Instr} {p : Port} (hi : i.belongsOn .ca = true) (hp : i.belongsOn p = true) :
    p = .ca ∨ p = .cb := by
  cases p with
  | ca => exact .inl rfl
  | cb => exact .inr rfl
  | i | pb => cases i <;> simp [Instr.belongsOn] at hi hp

/-! ## What the rule of a command decides about FAULT -/

/-- A decision that leaves FAULT alone, or raises a code that every port of the command can raise (R50, R105). -/
def Action.FaultSound (i : Instr) (s : State) (a : Action) : Prop :=
  match a with
  | .respond _ _ t => t.fault = s.fault
  | .hold => True
  | .raise c => ∀ p, i.belongsOn p = true → c.raisedOn p = true
  | .stop _ => True

theorem Action.faultSound_raise_producer {i : Instr} {s : State} {c : FaultCode} (hi : i.belongsOn .pb = true)
    (hc : c.raisedOn .pb = true) : (Action.raise c).FaultSound i s := by
  intro p hp
  cases belongsOn_producer hi hp
  exact hc

theorem Action.faultSound_raise_consumer {i : Instr} {s : State} {c : FaultCode} (hi : i.belongsOn .ca = true)
    (hca : c.raisedOn .ca = true) (hcb : c.raisedOn .cb = true) : (Action.raise c).FaultSound i s := by
  intro p hp
  rcases belongsOn_consumer hi hp with rfl | rfl
  · exact hca
  · exact hcb

theorem writeAccess_faultSound (i : Instr) (s : State) (op : QueueParams → Nat → Queue → Except Fault Reply)
    (hi : i.belongsOn .pb = true) : ∃ a, writeAccess i s op = command i s a ∧ a.FaultSound i s := by
  refine ⟨_, rfl, ?_⟩
  split
  · split
    · exact rfl
    · trivial
  · exact Action.faultSound_raise_producer hi rfl

theorem readAccess_faultSound (i : Instr) (s : State) (op : QueueParams → Nat → Queue → Except Fault Reply)
    (hi : i.belongsOn .ca = true) : ∃ a, readAccess i s op = command i s a ∧ a.FaultSound i s := by
  refine ⟨_, rfl, ?_⟩
  split
  · split
    · exact State.setQueue_fault s _ _
    · trivial
  · exact Action.faultSound_raise_consumer hi rfl rfl

theorem acquireWriteSlot_faultSound {i : Instr} {s : State} {unavailable : Action} (hi : i.belongsOn .pb = true)
    (hun : unavailable.FaultSound i s) : (acquireWriteSlot s unavailable).FaultSound i s := by
  unfold acquireWriteSlot
  split
  · exact Action.faultSound_raise_producer hi rfl
  · split
    · exact rfl
    · exact hun

/-- `exec_is_command` with what R105 says of the rule: row by row, FAULT stays or the command raises a code of its port. -/
theorem exec_faultSound (i : Instr) (s : State) : ∃ a, exec i s = command i s a ∧ a.FaultSound i s := by
  cases i with
  | acqw => exact ⟨_, rfl, acquireWriteSlot_faultSound rfl trivial⟩
  | acqwt =>
    refine ⟨_, rfl, acquireWriteSlot_faultSound rfl ?_⟩
    split
    · exact rfl
    · trivial
  | relw =>
    refine ⟨_, rfl, ?_⟩
    split
    · exact rfl
    · exact Action.faultSound_raise_producer rfl rfl
  | addb b =>
    rw [exec_addb]
    exact writeAccess_faultSound (.addb b) s _ rfl
  | wfull =>
    rw [exec_wfull]
    exact writeAccess_faultSound .wfull s _ rfl
  | wempty =>
    rw [exec_wempty]
    exact writeAccess_faultSound .wempty s _ rfl
  | acqr =>
    refine ⟨_, rfl, ?_⟩
    split
    · exact Action.faultSound_raise_consumer rfl rfl rfl
    · split
      · exact State.setQueue_fault s _ _
      · trivial
  | relr =>
    refine ⟨_, rfl, ?_⟩
    split
    · exact State.setQueue_fault s _ _
    · exact Action.faultSound_raise_consumer rfl rfl rfl
  | remb =>
    rw [exec_remb]
    exact readAccess_faultSound .remb s _ rfl
  | peek =>
    rw [exec_peek]
    exact readAccess_faultSound .peek s _ rfl
  | rfull =>
    rw [exec_rfull]
    exact readAccess_faultSound .rfull s _ rfl
  | rempty =>
    rw [exec_rempty]
    exact readAccess_faultSound .rempty s _ rfl
  | pbyte b =>
    refine ⟨_, rfl, ?_⟩
    split
    · trivial
    · split
      · exact rfl
      · trivial

/-! ## Fault entry -/

/-- F is a bit of FAULT (R24). -/
theorem State.halted_congr {s t : State} (h : t.fault = s.fault) : t.halted = s.halted :=
  congrArg (BitVec.getLsbD · 15) h

/-- `t` is `s` after the command word `w` has raised, on the scheduled port, a code that this port can raise (R105, R107). -/
def State.RaisedBy (s t : State) (w : Word) : Prop :=
  ∃ c, FaultCode.raisedOn c s.turn.port = true ∧ t = s.raise s.turn.port w c

theorem exec_enters_halted {i : Instr} {s t : State} (hrun : s.halted = false) (hnext : exec i s = .next t)
    (hhalt : t.halted = true) : s.RaisedBy t (encode i) := by
  obtain ⟨a, hexec, hsound⟩ := exec_faultSound i s
  rcases command_next i s t a (hexec.symm.trans hnext) with ⟨hs, -⟩ | ⟨-, -, ht⟩ | ⟨-, hlegal, hconc⟩
  · simp [hrun] at hs
  · exact ⟨.illegalCommand, rfl, ht⟩
  · rcases conclude_next i s t a hconc with ⟨st, d, u, rfl, rfl⟩ | ⟨-, rfl⟩ | ⟨c, rfl, ht⟩
    · have hsame : u.halted = s.halted := State.halted_congr hsound
      simp [hsame, hrun] at hhalt
    · simp [hrun] at hhalt
    · obtain ⟨hport, -⟩ : i.belongsOn s.turn.port = true ∧ _ := by simpa only [legalOn, Bool.and_eq_true] using hlegal
      have hcode : ∀ p, i.belongsOn p = true → c.raisedOn p = true := hsound
      exact ⟨c, hcode _ hport, ht⟩

theorem dispatch_enters_halted {s t : State} (hrun : s.halted = false) (hnext : dispatch s = .next t)
    (hhalt : t.halted = true) : ∃ w, (s.port s.turn.port).cmd = some w ∧ s.RaisedBy t w := by
  rcases dispatch_cases s with ⟨-, hd⟩ | ⟨w, i, hcmd, hdec, hd⟩ | ⟨w, -, hcmd, -, hd⟩ <;> rw [hd] at hnext
  · cases hnext
    simp [hrun] at hhalt
  · exact ⟨w, hcmd, encode_of_decode_ok hdec ▸ exec_enters_halted hrun hnext hhalt⟩
  · simp only [illegalStep, hrun] at hnext
    cases hnext
    exact ⟨w, hcmd, .illegalCommand, rfl, rfl⟩

/-- Noting a turn leaves the ports as they are. -/
theorem State.withTurn_port (s : State) (turn : Turn) (p : Port) : ({ s with turn := turn } : State).port p = s.port p := by
  cases p <;> rfl

/-- Presenting a command answers only on a free port (R26, R46). -/
theorem presentCommand_next {p : Port} {w : Word} {s t : State} (h : presentCommand p w s = .next t) :
    t = s.setPort p { cmd := some w, rsp := none } := by
  unfold presentCommand at h
  split at h
  · exact (Host.Outcome.next.inj h).symm
  · cases h

theorem emitStep_next_fault {s t : State} (h : emitStep s = .next t) : t.fault = s.fault := by
  rcases emitStep_next s t h with ⟨-, rfl⟩ | ⟨-, _, _, _, -, -, rfl⟩
  · rfl
  · rfl

/-- Only the turn of a port makes a running block halted. -/
theorem runEvent_enters_halted {e : Event} {s t : State} (hrun : s.halted = false) (hnext : runEvent e s = .next t)
    (hhalt : t.halted = true) :
    ∃ p timeout w, e = .turn p timeout ∧ (s.port p).cmd = some w ∧
      ({ s with turn := { port := p, timeout := timeout } } : State).RaisedBy t w := by
  have absurd_of_running (h : t.halted = false) : False := by simp [h] at hhalt
  cases e with
  | turn p timeout =>
    obtain ⟨w, hcmd, hraised⟩ := dispatch_enters_halted (s := { s with turn := ⟨p, timeout⟩ }) hrun hnext hhalt
    exact ⟨p, timeout, w, rfl, State.withTurn_port s _ p ▸ hcmd, hraised⟩
  | emit => exact (absurd_of_running ((State.halted_congr (emitStep_next_fault hnext)).trans hrun)).elim
  | syncR2W x d =>
    cases hnext
    exact (absurd_of_running (by simp [hrun])).elim
  | syncW2R x d =>
    cases hnext
    exact (absurd_of_running (by simp [hrun])).elim
  | present p w => exact (absurd_of_running (by simp [presentCommand_next hnext, hrun])).elim
  | reset =>
    cases hnext
    exact (absurd_of_running (by simp)).elim

/-! ## The halted block -/

theorem exec_halted {s : State} (i : Instr) (h : s.halted = true) : exec i s = .next s := by
  obtain ⟨a, hexec⟩ := exec_is_command i s
  rw [hexec, command_halted i s a h]

theorem dispatch_halted {s : State} (h : s.halted = true) : dispatch s = .next s := by
  rcases dispatch_cases s with ⟨-, hd⟩ | ⟨w, i, -, -, hd⟩ | ⟨w, -, -, -, hd⟩
  · exact hd
  · rw [hd, exec_halted i h]
  · rw [hd, illegalStep, if_pos h]

/-- In a halted block the event of an agent changes nothing but the note of the turn (R107). -/
theorem runEvent_halted {e : Event} {s : State} (h : s.halted = true) (hagent : agentOf e ≠ none) :
    ∃ turn : Turn, runEvent e s = .next { s with turn := turn } := by
  cases e with
  | turn p timeout => exact ⟨⟨p, timeout⟩, dispatch_halted h⟩
  | emit => exact ⟨s.turn, emitStep_of_disabled (by simp [State.emitEnabled, h])⟩
  | syncR2W x d => exact ⟨s.turn, by simp [runEvent, syncR2WStep, h]⟩
  | syncW2R x d => exact ⟨s.turn, by simp [runEvent, syncW2RStep, h]⟩
  | present p w | reset => exact absurd rfl hagent

/-- A halted block answers every event but the block reset with FAULT and FCMD as they are (R108). -/
theorem runEvent_halted_fault {e : Event} {s t : State} (h : s.halted = true) (he : e ≠ .reset)
    (hnext : runEvent e s = .next t) : t.fault = s.fault ∧ t.fcmd = s.fcmd := by
  by_cases hagent : agentOf e = none
  · cases e with
    | present p w => simp [presentCommand_next hnext]
    | reset => exact absurd rfl he
    | turn | emit | syncR2W | syncW2R => cases hagent
  · obtain ⟨turn, hstay⟩ := runEvent_halted h hagent
    cases hstay.symm.trans hnext
    exact ⟨rfl, rfl⟩

/-! ## The obligations -/

/-- Settles O8: fault entry is the raise of one turn (`runEvent_enters_halted`), and a halted block ignores its agents. -/
theorem faultEntryIsPreciseAndHalts : Obligations.FaultEntryIsPreciseAndHalts := by
  refine ⟨fun e s t hrun hnext hhalt => ?_, fun _ _ => runEvent_halted⟩
  obtain ⟨p, timeout, w, he, hcmd, c, hc, rfl⟩ := runEvent_enters_halted hrun hnext hhalt
  exact ⟨p, timeout, w, c, he, hcmd, hc, rfl, State.raise_faultSrc _ _ _ _, State.raise_faultCode _ _ _ _⟩

/-- Settles O9: F is a bit of FAULT, which only the block reset changes in a halted block. -/
theorem onlyTheBlockResetLeavesTheHaltedState : Obligations.OnlyTheBlockResetLeavesTheHaltedState := by
  refine ⟨fun e s t h he hnext => ?_, fun s => ⟨s.blockReset, rfl, State.blockReset_halted s⟩⟩
  obtain ⟨hfault, hfcmd⟩ := runEvent_halted_fault h he hnext
  exact ⟨(State.halted_congr hfault).trans h, hfault, hfcmd⟩

end Sys2Proof.Machine
end

section
/-! The block reset (R117, R118). The reset values of the parts: a queue of empty slots with a free arbiter and no storage
byte (R30, R89), an idle parser, idle ports. The block of a configuration right after reset is made of them, and the block
reset gives that state but for the model's own schedule, which no reset value speaks of. -/

namespace Sys2Proof.Machine

/-! ## A queue after reset -/

theorem Arbiter.reset_semaphore {g : QueueParams} (h : g.arbiter = .semaphore) :
    Arbiter.reset g = .semaphore { wIdx := 0, rIdx := 0, semW := BitVec.ofNat 9 g.n, semR := 0 } := by
  simp [Arbiter.reset, h]

theorem Arbiter.reset_grayCdc {g : QueueParams} (h : g.arbiter = .grayCdc) :
    Arbiter.reset g = .grayCdc { wPtr := 0, rPtr := 0, rPtrSyncW := 0, wPtrSyncR := 0 } := by
  simp [Arbiter.reset, h]

@[simp] theorem Queue.reset_arbiter (g : QueueParams) : (Queue.reset g).arbiter = Arbiter.reset g := rfl

@[simp] theorem Queue.reset_slots_length (g : QueueParams) : (Queue.reset g).slots.length = g.n := List.length_replicate

@[simp] theorem Queue.reset_slot (g : QueueParams) (j : Nat) : (Queue.reset g).slot j = Slot.empty := by
  rw [Queue.slot, Queue.reset, List.getD_eq_getElem?_getD, List.getElem?_replicate]
  split <;> rfl

/-- A queue of at most 256 slots (R3) has its reset values: the counter of free slots, nine bits wide, holds all N. -/
theorem Queue.reset_isReset {g : QueueParams} (hn : g.n ≤ 256) : (Queue.reset g).IsReset g where
  slots_length := Queue.reset_slots_length g
  slots := fun j _ => Queue.reset_slot g j
  arbiter := by
    cases hkind : g.arbiter with
    | semaphore =>
      have hfree : (BitVec.ofNat 9 g.n).toNat = g.n := Nat.mod_eq_of_lt (by omega)
      rw [Queue.reset_arbiter, Arbiter.reset_semaphore hkind]
      exact ⟨rfl, rfl, rfl, hfree, rfl⟩
    | grayCdc =>
      rw [Queue.reset_arbiter, Arbiter.reset_grayCdc hkind]
      exact ⟨rfl, rfl, rfl, rfl, rfl⟩
  not_held := ⟨rfl, rfl⟩
  storage := Memory.read_nil

/-! ## The block after reset -/

@[simp] theorem State.resetWith_queue (c : Config) (x : QueueId) :
    (State.resetWith c).queue x = Queue.reset (c.queue x) := by
  cases x <;> rfl

@[simp] theorem State.resetWith_port (c : Config) (p : Port) : (State.resetWith c).port p = PortState.idle := by
  cases p <;> rfl

/-- Every configuration is within R3, so both of its queues have their reset values. -/
theorem State.resetWith_isReset (c : Config) : (State.resetWith c).IsReset where
  fault_registers := ⟨rfl, rfl⟩
  parser := ⟨rfl, rfl, rfl, rfl, rfl, rfl⟩
  parser_data := Memory.read_nil
  queues := fun x => by
    obtain ⟨-, hn, -⟩ := Config.queue_range c x
    rw [State.resetWith_queue]
    exact Queue.reset_isReset hn
  ports := fun p => by rw [State.resetWith_port]; rfl

/-- The reset values say nothing of the model's own schedule (log 2). -/
theorem State.IsReset.withSchedule {s : State} (h : s.IsReset) (tape : List Event) (drawn : Nat) :
    ({ s with tape := tape, drawn := drawn } : State).IsReset where
  fault_registers := h.fault_registers
  parser := h.parser
  parser_data := h.parser_data
  queues := h.queues
  ports := h.ports

theorem State.blockReset_isReset (s : State) : s.blockReset.IsReset :=
  (State.resetWith_isReset s.cfg).withSchedule s.tape s.drawn

/-! ## The obligation -/

/-- Settles O10: the reset event always answers, with the reset state of the block's own configuration. -/
theorem blockResetGivesTheResetValues : Obligations.BlockResetGivesTheResetValues :=
  ⟨fun s => ⟨s.blockReset, rfl, State.blockReset_isReset s, State.blockReset_cfg s⟩, State.resetWith_isReset⟩

end Sys2Proof.Machine
end

section
/-! The encoding of R47 and R50 in both directions: decoding an encoded command gives it back, and the words that a port
accepts are those of R52. -/

namespace Sys2Proof

/-! ## Decoding an encoded command -/

/-- An operand-less command of R50 is read back from its own word, where D is 0x00. -/
theorem decodeBare_encode (i : Instr) (h : operandByte i = 0) : decodeBare (encode i) i = .ok i :=
  (decodeBare_ok _ _ _).2 ⟨(dField_encode i).trans h, rfl⟩

/-- Row by row of R50: the opcode of a command selects its own row of the decoder. -/
theorem decodeOp_encode (i : Instr) : decodeOp (encode i) = .ok i := by
  unfold decodeOp
  rw [opField_encode, dField_encode]
  cases i with
  | addb b | pbyte b => rfl
  | _ => exact decodeBare_encode _ rfl

theorem decode_encode (i : Instr) : decode (encode i) = .ok i := by
  rw [decode, zField_encode, if_pos rfl, decodeOp_encode]

/-- Settles O1: the three fields of an encoded command are read back one by one. -/
theorem decodeOfEncodeIsTheInstruction : Obligations.DecodeOfEncodeIsTheInstruction :=
  decode_encode

/-- Settles O2: a word is its three fields, and they are those of the command it decodes to. -/
theorem encodeOfDecodedIsTheWord : Obligations.EncodeOfDecodedIsTheWord :=
  fun _ _ => encode_of_decode_ok

/-- Settles O4, word by word. -/
theorem opcodeWordsDecode : Obligations.OpcodeWordsDecode := by
  refine ⟨?_, ?_, ?_, ?_, ?_, ?_⟩ <;> rfl

/-! ## Legal words -/

/-- A row of R50 without operand, as the command that `exists_legalOn_of_opcode` asks for. -/
theorem exists_legalOn_of_bare {timed : Bool} {p : Port} {op : Nat} {d : Byte} (i : Instr)
    (hd : op ∈ [0x3, 0xE] ∨ d = 0) (hbare : op ∉ [0x3, 0xE]) (hop : (opcode i).toNat = op) (hi : operandByte i = 0)
    (hlegal : legalOn timed p i = true) :
    ∃ i, (opcode i).toNat = op ∧ operandByte i = d ∧ legalOn timed p i = true :=
  ⟨i, hop, hi.trans (hd.resolve_left hbare).symm, hlegal⟩

/-- The commands of a consumer port, row by row of R50. -/
theorem exists_legalOn_of_consumer_opcode {timed : Bool} {p : Port} {op : Nat} {d : Byte} (hp : p = .ca ∨ p = .cb)
    (hop : op ∈ [0x8, 0x9, 0xA, 0xB, 0xC, 0xD]) (hd : op ∈ [0x3, 0xE] ∨ d = 0) :
    ∃ i, (opcode i).toNat = op ∧ operandByte i = d ∧ legalOn timed p i = true := by
  have hlegal : ∀ i ∈ [Instr.acqr, .relr, .remb, .peek, .rfull, .rempty], legalOn timed p i = true := by
    obtain rfl | rfl := hp <;> cases timed <;> decide
  simp only [List.mem_cons, List.not_mem_nil, or_false] at hop
  obtain rfl | rfl | rfl | rfl | rfl | rfl := hop
  · exact exists_legalOn_of_bare .acqr hd (by decide) rfl rfl (hlegal _ (by decide))
  · exact exists_legalOn_of_bare .relr hd (by decide) rfl rfl (hlegal _ (by decide))
  · exact exists_legalOn_of_bare .remb hd (by decide) rfl rfl (hlegal _ (by decide))
  · exact exists_legalOn_of_bare .peek hd (by decide) rfl rfl (hlegal _ (by decide))
  · exact exists_legalOn_of_bare .rfull hd (by decide) rfl rfl (hlegal _ (by decide))
  · exact exists_legalOn_of_bare .rempty hd (by decide) rfl rfl (hlegal _ (by decide))

/-- The commands of the producer port, row by row of R50; ACQWT only with TIMED_ACQUIRE (R52 (e)). -/
theorem exists_legalOn_of_producer_opcode {timed : Bool} {op : Nat} {d : Byte}
    (hop : op ∈ Machine.legalOpcodes timed .pb) (hd : op ∈ [0x3, 0xE] ∨ d = 0) :
    ∃ i, (opcode i).toNat = op ∧ operandByte i = d ∧ legalOn timed .pb i = true := by
  have hrow : op ∈ [0x1, 0x2, 0x3, 0x4, 0x5] ∨ (op = 0x6 ∧ timed = true) := by
    cases timed with
    | true => simpa [Machine.legalOpcodes, or_assoc] using hop
    | false => simpa [Machine.legalOpcodes] using hop
  simp only [List.mem_cons, List.not_mem_nil, or_false] at hrow
  obtain (rfl | rfl | rfl | rfl | rfl) | ⟨rfl, rfl⟩ := hrow
  · exact exists_legalOn_of_bare .acqw hd (by decide) rfl rfl (by simp [legalOn, Instr.belongsOn])
  · exact exists_legalOn_of_bare .relw hd (by decide) rfl rfl (by simp [legalOn, Instr.belongsOn])
  · exact ⟨.addb d, rfl, rfl, by simp [legalOn, Instr.belongsOn]⟩
  · exact exists_legalOn_of_bare .wfull hd (by decide) rfl rfl (by simp [legalOn, Instr.belongsOn])
  · exact exists_legalOn_of_bare .wempty hd (by decide) rfl rfl (by simp [legalOn, Instr.belongsOn])
  · exact exists_legalOn_of_bare .acqwt hd (by decide) rfl rfl rfl

/-- Every opcode in a port's column of R50, with a D field that R52 (d) allows it, is the opcode of a command that is legal
on the port. -/
theorem exists_legalOn_of_opcode {timed : Bool} {p : Port} {op : Nat} {d : Byte}
    (hop : op ∈ Machine.legalOpcodes timed p) (hd : op ∈ [0x3, 0xE] ∨ d = 0) :
    ∃ i, (opcode i).toNat = op ∧ operandByte i = d ∧ legalOn timed p i = true := by
  cases p with
  | i =>
    obtain rfl : op = 0xE := by simpa [Machine.legalOpcodes] using hop
    exact ⟨.pbyte d, rfl, rfl, by simp [legalOn, Instr.belongsOn]⟩
  | ca => exact exists_legalOn_of_consumer_opcode (.inl rfl) hop hd
  | cb => exact exists_legalOn_of_consumer_opcode (.inr rfl) hop hd
  | pb => exact exists_legalOn_of_producer_opcode hop hd

/-- A word whose fields meet every clause of R52 is the encoding of a command that is legal on the port. -/
theorem legalWord_of_fields {timed : Bool} {p : Port} {w : Word} (hz : zField w = 0)
    (hop : (opField w).toNat ∈ Machine.legalOpcodes timed p) (hd : (opField w).toNat ∈ [0x3, 0xE] ∨ dField w = 0) :
    legalWord timed p w = true := by
  obtain ⟨i, hi, hdi, hlegal⟩ := exists_legalOn_of_opcode hop hd
  have hw : encode i = w :=
    calc encode i
      _ = opField w ++ zField w ++ dField w := by rw [encode, hz, BitVec.eq_of_toNat_eq hi, hdi]; rfl
      _ = w := fields_join w
  exact legalWord_iff.2 ⟨i, hw ▸ decode_encode i, hlegal⟩

/-- Settles O3: a legal word meets R52 by its command's fields, and the fields R52 asks for are those of a legal command. -/
theorem legalWordsAreThoseOfTheTable : Obligations.LegalWordsAreThoseOfTheTable :=
  fun _ _ _ => ⟨fields_of_legalWord, fun ⟨hz, hop, hd⟩ => legalWord_of_fields hz hop hd⟩

end Sys2Proof
end

section
/-! What an event can do to the block, said once (R36, R37): the rule of each command apart from the frame of R106 it stands
in, what such a rule can answer, and from both the effects of every event. -/

namespace Sys2Proof.Machine

/-! ## The rule of a command -/

/-- The rule of an access to the held write slot of B (R70 to R72). -/
def writeRule (s : State) (op : QueueParams → Nat → Queue → Except Fault Reply) : Action :=
  if s.queueB.wHeld then
    match op s.cfg.b (s.queueB.writeSlot s.cfg.b) s.queueB with
    | .ok r => .respond r.st r.value { s with queueB := r.q }
    | .error f => .stop f
  else .raise .waccessNotHeld

/-- The rule of an access to the held read slot of queue `x` (R77 to R80). -/
def readRule (x : QueueId) (s : State) (op : QueueParams → Nat → Queue → Except Fault Reply) : Action :=
  if (s.queue x).rHeld then
    match op (s.cfg.queue x) ((s.queue x).readSlot (s.cfg.queue x)) (s.queue x) with
    | .ok r => .respond r.st r.value (s.setQueue x r.q)
    | .error f => .stop f
  else .raise .raccessNotHeld

/-- The rule of each command, without the frame that all commands share; `exec_eq_command` ties it to the model. -/
def commandRule (i : Instr) (s : State) : Action :=
  match i with
  | .acqw => acquireWriteSlot s .hold
  | .relw =>
    if s.queueB.wHeld then .respond .ok 0 { s with queueB := s.queueB.releaseWrite s.cfg.b } else .raise .relwNotHeld
  | .addb b => writeRule s (cbAddByte · · b)
  | .wfull => writeRule s (fun g j q => .ok (cbIsFull g j q))
  | .wempty => writeRule s (fun _ j q => .ok (cbIsEmpty j q))
  | .acqwt => acquireWriteSlot s (if s.turn.timeout then .respond .timeout 0 s else .hold)
  | .acqr =>
    if (s.queue s.consumed).rHeld then .raise .acqrWhileHeld
    else if (s.queue s.consumed).canAcquireRead (s.cfg.queue s.consumed) then
      .respond .ok 0 (s.setQueue s.consumed (s.queue s.consumed).acquireRead)
    else .hold
  | .relr =>
    if (s.queue s.consumed).rHeld then
      .respond .ok 0 (s.setQueue s.consumed ((s.queue s.consumed).releaseRead (s.cfg.queue s.consumed)))
    else .raise .relrNotHeld
  | .remb => readRule s.consumed s cbRemoveByte
  | .peek => readRule s.consumed s cbPeekByte
  | .rfull => readRule s.consumed s (fun g j q => .ok (cbIsFull g j q))
  | .rempty => readRule s.consumed s (fun _ j q => .ok (cbIsEmpty j q))
  | .pbyte b =>
    if s.parser.pend then .hold
    else
      match s.parser.input b with
      | .ok p => .respond .ok 0 { s with parser := p }
      | .error f => .stop f

/-- Every meaning is its rule within the frame of R106. -/
theorem exec_eq_command (i : Instr) (s : State) : exec i s = command i s (commandRule i s) := by
  cases i <;> rfl

/-! ## What a rule can answer -/

/-- What a command, EMIT or a synchroniser can do to a queue: one move of R62, R63, R68 to R76, R84 to R86 or R100. -/
inductive Queue.Move (g : QueueParams) (q : Queue) : Queue → Prop where
  | stay : Move g q q
  | acquireWrite : q.wHeld = false → q.canAcquireWrite g = true → Move g q q.acquireWrite
  | releaseWrite : q.wHeld = true → Move g q (q.releaseWrite g)
  | addByte (b : Byte) (r : Reply) : q.wHeld = true → cbAddByte g (q.writeSlot g) b q = .ok r → Move g q r.q
  | acquireRead : q.rHeld = false → q.canAcquireRead g = true → Move g q q.acquireRead
  | releaseRead : q.rHeld = true → Move g q (q.releaseRead g)
  | removeByte (r : Reply) : q.rHeld = true → cbRemoveByte g (q.readSlot g) q = .ok r → Move g q r.q
  | syncR2W (d : Nat) : Move g q (q.syncR2W g d)
  | syncW2R (d : Nat) : Move g q (q.syncW2R g d)

theorem writeRule_respond {s u : State} {op : QueueParams → Nat → Queue → Except Fault Reply} {st : Status} {d : Byte}
    (h : writeRule s op = .respond st d u) :
    s.queueB.wHeld = true ∧ ∃ r, op s.cfg.b (s.queueB.writeSlot s.cfg.b) s.queueB = .ok r ∧ st = r.st ∧ d = r.value ∧
      u = { s with queueB := r.q } := by
  unfold writeRule at h
  split at h
  · split at h
    · cases h
      exact ⟨‹_›, _, ‹_›, rfl, rfl, rfl⟩
    · cases h
  · cases h

theorem readRule_respond {x : QueueId} {s u : State} {op : QueueParams → Nat → Queue → Except Fault Reply} {st : Status}
    {d : Byte} (h : readRule x s op = .respond st d u) :
    (s.queue x).rHeld = true ∧
      ∃ r, op (s.cfg.queue x) ((s.queue x).readSlot (s.cfg.queue x)) (s.queue x) = .ok r ∧ st = r.st ∧ d = r.value ∧
        u = s.setQueue x r.q := by
  unfold readRule at h
  split at h
  · split at h
    · cases h
      exact ⟨‹_›, _, ‹_›, rfl, rfl, rfl⟩
    · cases h
  · cases h

/-- AcquireWriteSlot answers with the slot, or as the rule for no slot does (R68, R73). -/
theorem acquireWriteSlot_respond {s u : State} {unavailable : Action} {st : Status} {d : Byte}
    (h : acquireWriteSlot s unavailable = .respond st d u) :
    s.queueB.wHeld = false ∧
      ((s.queueB.canAcquireWrite s.cfg.b = true ∧ u = { s with queueB := s.queueB.acquireWrite }) ∨
        unavailable = .respond st d u) := by
  unfold acquireWriteSlot at h
  split at h
  · cases h
  · refine ⟨by simpa using ‹¬ s.queueB.wHeld = true›, ?_⟩
    split at h
    · cases h
      exact .inl ⟨‹_›, rfl⟩
    · exact .inr h

/-- A command that reads nothing but a slot leaves its queue as it is (R60, R61, R64). -/
theorem cbPeekByte_q {g : QueueParams} {j : Nat} {q : Queue} {r : Reply} (h : cbPeekByte g j q = .ok r) : r.q = q := by
  obtain ⟨-, rfl⟩ | ⟨-, -, v, -, rfl⟩ := cbPeekByte_ok g j q r h
  · rfl
  · rfl

theorem cbRemoveByte_wHeld {g : QueueParams} {j : Nat} {q : Queue} {r : Reply} (h : cbRemoveByte g j q = .ok r) :
    r.q.wHeld = q.wHeld := by
  obtain ⟨-, rfl⟩ | ⟨-, -, v, -, rfl⟩ := cbRemoveByte_ok g j q r h
  · rfl
  · rfl

/-- What a rule answers: one queue has made a move, by a producer command only queue B (R45), or the parser has taken a
byte in. -/
theorem commandRule_respond {i : Instr} {s u : State} {st : Status} {d : Byte} (h : commandRule i s = .respond st d u) :
    (∃ x q, u = s.setQueue x q ∧ Queue.Move (s.cfg.queue x) (s.queue x) q ∧ (x = .b ∨ q.wHeld = (s.queue x).wHeld)) ∨
      ∃ b p, i = .pbyte b ∧ s.parser.pend = false ∧ s.parser.input b = .ok p ∧ u = { s with parser := p } := by
  cases i with
  | acqw =>
    obtain ⟨hheld, ⟨hfree, rfl⟩ | hnone⟩ := acquireWriteSlot_respond h
    · exact .inl ⟨.b, _, rfl, .acquireWrite hheld hfree, .inl rfl⟩
    · cases hnone
  | acqwt =>
    obtain ⟨hheld, ⟨hfree, rfl⟩ | hnone⟩ := acquireWriteSlot_respond h
    · exact .inl ⟨.b, _, rfl, .acquireWrite hheld hfree, .inl rfl⟩
    · split at hnone
      · cases hnone
        exact .inl ⟨.b, _, (State.setQueue_self s .b).symm, .stay, .inl rfl⟩
      · cases hnone
  | relw =>
    simp only [commandRule] at h
    split at h
    · cases h
      exact .inl ⟨.b, _, rfl, .releaseWrite ‹_›, .inl rfl⟩
    · cases h
  | addb b =>
    simp only [commandRule] at h
    obtain ⟨hheld, r, hr, -, -, rfl⟩ := writeRule_respond h
    exact .inl ⟨.b, _, rfl, .addByte b r hheld hr, .inl rfl⟩
  | wfull | wempty =>
    simp only [commandRule] at h
    obtain ⟨-, r, hr, -, -, rfl⟩ := writeRule_respond h
    cases hr
    exact .inl ⟨.b, _, rfl, .stay, .inl rfl⟩
  | acqr =>
    simp only [commandRule] at h
    split at h
    · cases h
    · split at h
      · cases h
        exact .inl ⟨_, _, rfl, .acquireRead (by simpa using ‹¬ (s.queue s.consumed).rHeld = true›) ‹_›,
          .inr (Queue.acquireRead_wHeld _)⟩
      · cases h
  | relr =>
    simp only [commandRule] at h
    split at h
    · cases h
      exact .inl ⟨_, _, rfl, .releaseRead ‹_›, .inr (Queue.releaseRead_wHeld _ _)⟩
    · cases h
  | remb =>
    obtain ⟨hheld, r, hr, -, -, rfl⟩ := readRule_respond h
    exact .inl ⟨_, _, rfl, .removeByte r hheld hr, .inr (cbRemoveByte_wHeld hr)⟩
  | peek =>
    simp only [commandRule] at h
    obtain ⟨-, r, hr, -, -, rfl⟩ := readRule_respond h
    rw [cbPeekByte_q hr]
    exact .inl ⟨_, _, rfl, .stay, .inr rfl⟩
  | rfull | rempty =>
    simp only [commandRule] at h
    obtain ⟨-, r, hr, -, -, rfl⟩ := readRule_respond h
    cases hr
    exact .inl ⟨_, _, rfl, .stay, .inr rfl⟩
  | pbyte b =>
    simp only [commandRule] at h
    split at h
    · cases h
    · split at h
      · cases h
        exact .inr ⟨b, _, rfl, by simpa using ‹¬ s.parser.pend = true›, ‹_›, rfl⟩
      · cases h

/-! ## The effects of an event -/

/-- What event `e` can make of the block `s`, if it answers (R36, R37, R46, R100, R107, R117). -/
inductive State.Effect (s : State) : Event → State → Prop where
  | stays (e : Event) : Effect s e s
  | noted (turn : Turn) : Effect s (.turn turn.port turn.timeout) { s with turn := turn }
  | raised (turn : Turn) (w : Word) (c : FaultCode) : c.raisedOn turn.port = true →
      Effect s (.turn turn.port turn.timeout) (({ s with turn := turn } : State).raise turn.port w c)
  | moved (turn : Turn) (x : QueueId) (q : Queue) (st : Status) (d : Byte) :
      Queue.Move (s.cfg.queue x) (s.queue x) q → (x = .b ∨ q.wHeld = (s.queue x).wHeld) →
      Effect s (.turn turn.port turn.timeout)
        ((({ s with turn := turn } : State).setQueue x q).answer turn.port (responseWord st d))
  | byteTaken (turn : Turn) (b : Byte) (p : Parser) (st : Status) (d : Byte) :
      s.parser.pend = false → s.parser.input b = .ok p →
      Effect s (.turn turn.port turn.timeout)
        (({ s with turn := turn, parser := p } : State).answer turn.port (responseWord st d))
  | emitted (bytes : List Byte) (sts : List Status) (q : Queue) :
      s.emitEnabled = true → record s.parser.pendLen s.parser.data = .ok bytes →
      cbWriteBlock s.cfg.a (s.queueA.writeSlot s.cfg.a) bytes s.queueA = .ok (sts, q) →
      Effect s .emit { s with queueA := q.acquireWrite.releaseWrite s.cfg.a, parser := { s.parser with pend := false } }
  | syncedR2W (x : QueueId) (d : Nat) :
      Effect s (.syncR2W x d) (s.setQueue x ((s.queue x).syncR2W (s.cfg.queue x) d))
  | syncedW2R (x : QueueId) (d : Nat) :
      Effect s (.syncW2R x d) (s.setQueue x ((s.queue x).syncW2R (s.cfg.queue x) d))
  | presented (p : Port) (w : Word) : (s.port p).cmd = none →
      Effect s (.present p w) (s.setPort p { cmd := some w, rsp := none })
  | reset : Effect s .reset s.blockReset

/-- A turn that leaves the block running answers by its command's rule, or leaves it as it is. -/
theorem dispatch_running {s t : State} (hnext : dispatch s = .next t) (hrun : t.halted = false) :
    t = s ∨ ∃ i st d u, commandRule i s = .respond st d u ∧ t = u.answer s.turn.port (responseWord st d) := by
  rcases dispatch_cases s with ⟨-, hd⟩ | ⟨w, i, -, -, hd⟩ | ⟨w, -, -, -, hd⟩ <;> rw [hd] at hnext
  · exact .inl (Host.Outcome.next.inj hnext).symm
  · rw [exec_eq_command] at hnext
    rcases command_next i s t _ hnext with ⟨-, ht⟩ | ⟨-, -, rfl⟩ | ⟨-, -, hconc⟩
    · exact .inl ht
    · simp at hrun
    · rcases conclude_next i s t _ hconc with ⟨st, d, u, ha, ht⟩ | ⟨-, ht⟩ | ⟨c, -, rfl⟩
      · exact .inr ⟨i, st, d, u, ha, ht⟩
      · exact .inl ht
      · simp at hrun
  · unfold illegalStep at hnext
    split at hnext <;> cases hnext
    · exact .inl rfl
    · simp at hrun

theorem dispatch_effect {s t : State} {turn : Turn} (hnext : dispatch { s with turn := turn } = .next t) :
    s.Effect (.turn turn.port turn.timeout) t := by
  cases hs : s.halted with
  | true =>
    cases (dispatch_halted (s := { s with turn := turn }) hs).symm.trans hnext
    exact .noted turn
  | false =>
    cases ht : t.halted with
    | true =>
      obtain ⟨w, -, c, hc, rfl⟩ := dispatch_enters_halted (s := { s with turn := turn }) hs hnext ht
      exact .raised turn w c hc
    | false =>
      obtain rfl | ⟨i, st, d, u, hrule, rfl⟩ := dispatch_running hnext ht
      · exact .noted turn
      · obtain ⟨x, q, rfl, hmove, hside⟩ | ⟨b, p, -, hpend, hin, rfl⟩ := commandRule_respond hrule
        · have hq : ({ s with turn := turn } : State).queue x = s.queue x := by cases x <;> rfl
          exact .moved turn x q st d (hq ▸ hmove) (hq ▸ hside)
        · exact .byteTaken turn b p st d hpend hin

/-- Everything an event that answers can do. -/
theorem runEvent_effect {e : Event} {s t : State} (hnext : runEvent e s = .next t) : s.Effect e t := by
  cases e with
  | turn p timeout => exact dispatch_effect (turn := ⟨p, timeout⟩) hnext
  | emit =>
    rcases emitStep_next s t hnext with ⟨-, rfl⟩ | ⟨hen, bytes, sts, q, hrec, hwrite, rfl⟩
    · exact .stays _
    · exact .emitted bytes sts q hen hrec hwrite
  | syncR2W x d =>
    cases hnext
    unfold syncR2WStep
    split
    · exact .stays _
    · exact .syncedR2W x d
  | syncW2R x d =>
    cases hnext
    unfold syncW2RStep
    split
    · exact .stays _
    · exact .syncedW2R x d
  | present p w =>
    have ht := presentCommand_next hnext
    subst ht
    refine .presented p w ?_
    cases hcmd : (s.port p).cmd with
    | none => rfl
    | some w' => simp [runEvent, presentCommand, hcmd] at hnext
  | reset =>
    cases hnext
    exact .reset

/-! ## The configuration -/

theorem State.Effect.cfg_eq {s t : State} {e : Event} (h : s.Effect e t) : t.cfg = s.cfg := by
  cases h <;> simp

/-- Settles O13: no effect of an event writes the configuration, and taking the event does not either. -/
theorem configurationNeverChanges : Obligations.ConfigurationNeverChanges := by
  intro s t hstep
  exact (runEvent_effect hstep).cfg_eq.trans (State.advance_cfg s)

end Sys2Proof.Machine
end

section
/-! The arbiter of a queue keeps its invariant (R15 to R17, R82, R87 (a)): what each acquire, release and synchronisation
does to the filled slots, to the read slot and to the legal counters and pointers. -/

namespace Sys2Proof

/-! ## Ranges of a configuration -/

/-- The ranges of N and CAP (R3, R4). -/
structure QueueParams.InRange (g : QueueParams) : Prop where
  one_le_n : 1 ≤ g.n
  n_le : g.n ≤ 256
  one_le_cap : 1 ≤ g.cap
  cap_le : g.cap ≤ 65535

end Sys2Proof

namespace Sys2Proof.Machine

/-- Both queues of a configuration are in range (R10). -/
theorem Config.queue_inRange (c : Config) (x : QueueId) : QueueParams.InRange (c.queue x) := by
  obtain ⟨hn, hn', hcap, hcap'⟩ := Config.queue_range c x
  exact ⟨hn, hn', hcap, hcap'⟩

/-! ## Counters and pointers -/

theorem Count.toNat_add_one {c : Count} (h : c.toNat < 511) : (c + 1).toNat = c.toNat + 1 := by
  bv_omega

theorem Count.toNat_sub_one {c : Count} (h : 0 < c.toNat) : (c - 1).toNat = c.toNat - 1 := by
  bv_omega

/-- A distance below 2N is determined by where it leads (R82). -/
theorem pointerDistance_eq_of_modEq {g : QueueParams} {p q : Count} {k : Nat} (hn : 1 ≤ g.n) (hk : k < 2 * g.n)
    (h : q.toNat + k ≡ p.toNat [MOD 2 * g.n]) : pointerDistance g p q = k :=
  ((add_pointerDistance_modEq g p q hn).trans h.symm).add_left_cancel'.eq_of_lt_of_lt (pointerDistance_lt g p q hn) hk

@[simp] theorem pointerDistance_self {g : QueueParams} (p : Count) (hn : 1 ≤ g.n) : pointerDistance g p p = 0 :=
  pointerDistance_eq_of_modEq hn (by omega) rfl

theorem pointerAdvance_modEq {g : QueueParams} (hg : g.InRange) (p : Count) (d : Nat) :
    (pointerAdvance g p d).toNat ≡ p.toNat + d [MOD 2 * g.n] := by
  rw [pointerAdvance_toNat g p d hg.one_le_n hg.n_le]
  exact Nat.mod_modEq _ _

theorem pointerAdvance_lt {g : QueueParams} (hg : g.InRange) (p : Count) (d : Nat) :
    (pointerAdvance g p d).toNat < 2 * g.n := by
  have hn := hg.one_le_n
  rw [pointerAdvance_toNat g p d hn hg.n_le]
  exact Nat.mod_lt _ (by omega)

/-- Moving the front pointer on makes the distance longer (R82). -/
theorem pointerDistance_advance_left {g : QueueParams} (hg : g.InRange) {p q : Count} {d : Nat}
    (h : pointerDistance g p q + d < 2 * g.n) :
    pointerDistance g (pointerAdvance g p d) q = pointerDistance g p q + d := by
  refine pointerDistance_eq_of_modEq hg.one_le_n h ?_
  calc q.toNat + (pointerDistance g p q + d)
    _ = q.toNat + pointerDistance g p q + d := (Nat.add_assoc _ _ _).symm
    _ ≡ p.toNat + d [MOD 2 * g.n] := (add_pointerDistance_modEq g p q hg.one_le_n).add_right d
    _ ≡ (pointerAdvance g p d).toNat [MOD 2 * g.n] := (pointerAdvance_modEq hg p d).symm

/-- Moving the rear pointer on makes the distance shorter (R82). -/
theorem pointerDistance_advance_right {g : QueueParams} (hg : g.InRange) {p q : Count} {d : Nat}
    (h : d ≤ pointerDistance g p q) :
    pointerDistance g p (pointerAdvance g q d) = pointerDistance g p q - d := by
  have hlt := pointerDistance_lt g p q hg.one_le_n
  refine pointerDistance_eq_of_modEq hg.one_le_n (by omega) ?_
  calc (pointerAdvance g q d).toNat + (pointerDistance g p q - d)
    _ ≡ q.toNat + d + (pointerDistance g p q - d) [MOD 2 * g.n] := (pointerAdvance_modEq hg q d).add_right _
    _ = q.toNat + pointerDistance g p q := by omega
    _ ≡ p.toNat [MOD 2 * g.n] := add_pointerDistance_modEq g p q hg.one_le_n

/-! ## A queue with either arbiter -/

section Semaphore

variable {g : QueueParams} {q : Queue} {c : Semaphores} (h : q.arbiter = .semaphore c)

include h

theorem Queue.filled_semaphore : q.filled g = c.semR.toNat + q.rHeld.toNat := by simp [Queue.filled, h]

theorem Queue.readSlot_semaphore : q.readSlot g = c.rIdx.toNat := by simp [Queue.readSlot, h]

theorem Queue.writeSlot_semaphore : q.writeSlot g = c.wIdx.toNat := by simp [Queue.writeSlot, h]

theorem Queue.arbiterWf_semaphore : q.ArbiterWf g ↔ g.arbiter = .semaphore ∧ c.Wf g q.wHeld q.rHeld := by
  simp [Queue.ArbiterWf, h]

theorem Queue.freeReadSlot_semaphore (g : QueueParams) :
    q.freeReadSlot g =
      { q with arbiter := .semaphore { c with rIdx := nextIndex g c.rIdx, semW := c.semW + 1 }, rHeld := false } := by
  simp [Queue.freeReadSlot, h]

theorem Queue.syncR2W_semaphore (g : QueueParams) (d : Nat) : q.syncR2W g d = q := by simp [Queue.syncR2W, h]

theorem Queue.syncW2R_semaphore (g : QueueParams) (d : Nat) : q.syncW2R g d = q := by simp [Queue.syncW2R, h]

end Semaphore

section GrayCdc

variable {g : QueueParams} {q : Queue} {p : GrayPointers} (h : q.arbiter = .grayCdc p)

include h

theorem Queue.filled_grayCdc : q.filled g = pointerDistance g p.wPtr p.rPtr := by simp [Queue.filled, h]

theorem Queue.readSlot_grayCdc : q.readSlot g = p.rPtr.toNat % g.n := by simp [Queue.readSlot, h]

theorem Queue.writeSlot_grayCdc : q.writeSlot g = p.wPtr.toNat % g.n := by simp [Queue.writeSlot, h]

theorem Queue.arbiterWf_grayCdc : q.ArbiterWf g ↔ g.arbiter = .grayCdc ∧ p.Wf g q.wHeld q.rHeld := by
  simp [Queue.ArbiterWf, h]

theorem Queue.acquireWrite_grayCdc : q.acquireWrite = { q with arbiter := .grayCdc p, wHeld := true } := by
  simp [Queue.acquireWrite, h]

theorem Queue.acquireRead_grayCdc : q.acquireRead = { q with arbiter := .grayCdc p, rHeld := true } := by
  simp [Queue.acquireRead, h]

theorem Queue.releaseWrite_grayCdc (g : QueueParams) :
    q.releaseWrite g = { q with arbiter := .grayCdc { p with wPtr := pointerAdvance g p.wPtr 1 }, wHeld := false } := by
  simp [Queue.releaseWrite, h]

theorem Queue.freeReadSlot_grayCdc (g : QueueParams) :
    q.freeReadSlot g = { q with arbiter := .grayCdc { p with rPtr := pointerAdvance g p.rPtr 1 }, rHeld := false } := by
  simp [Queue.freeReadSlot, h]

theorem Queue.syncR2W_grayCdc (g : QueueParams) (d : Nat) :
    q.syncR2W g d =
      { q with arbiter := .grayCdc { p with rPtrSyncW := syncPointer g p.rPtr p.rPtrSyncW d } } := by
  simp [Queue.syncR2W, h]

theorem Queue.syncW2R_grayCdc (g : QueueParams) (d : Nat) :
    q.syncW2R g d =
      { q with arbiter := .grayCdc { p with wPtrSyncR := syncPointer g p.wPtr p.wPtrSyncR d } } := by
  simp [Queue.syncW2R, h]

end GrayCdc

/-! ## The legal pointers -/

namespace GrayPointers.Wf

variable {g : QueueParams} {p : GrayPointers} {w r : Bool}

/-- The producer's view is the three distances of R87 (a) together. -/
theorem filledSeenByProducer_eq (h : p.Wf g w r) (hn : 1 ≤ g.n) :
    p.filledSeenByProducer g = pointerDistance g p.rPtr p.rPtrSyncW + pointerDistance g p.wPtrSyncR p.rPtr +
      pointerDistance g p.wPtr p.wPtrSyncR := by
  have hF := h.pointerDistance_eq hn
  obtain ⟨-, hsum, -⟩ := h
  have := pointerDistance_add g p.wPtr p.rPtr p.rPtrSyncW (by omega)
  rw [GrayPointers.filledSeenByProducer]
  omega

theorem acquireWrite (h : p.Wf g false r) (hn : 1 ≤ g.n) (hfree : p.filledSeenByProducer g < g.n) : p.Wf g true r := by
  rw [h.filledSeenByProducer_eq hn] at hfree
  obtain ⟨hrange, -, hseen⟩ := h
  exact ⟨hrange, by simpa using hfree, hseen⟩

theorem releaseWrite (h : p.Wf g true r) (hg : g.InRange) :
    ({ p with wPtr := pointerAdvance g p.wPtr 1 } : GrayPointers).Wf g false r := by
  obtain ⟨⟨-, hr, hrs, hws⟩, hsum, hseen⟩ := h
  have hn := hg.one_le_n
  simp only [Bool.toNat_true] at hsum
  have hdist := pointerDistance_advance_left hg (p := p.wPtr) (q := p.wPtrSyncR) (d := 1) (by omega)
  refine ⟨⟨pointerAdvance_lt hg _ _, hr, hrs, hws⟩, ?_, hseen⟩
  simp only [hdist, Bool.toNat_false]
  omega

theorem acquireRead (h : p.Wf g w false) (hsome : p.filledSeenByConsumer g ≠ 0) : p.Wf g w true := by
  obtain ⟨hrange, hsum, -⟩ := h
  exact ⟨hrange, hsum, Nat.pos_of_ne_zero hsome⟩

theorem freeRead (h : p.Wf g w true) (hg : g.InRange) :
    ({ p with rPtr := pointerAdvance g p.rPtr 1 } : GrayPointers).Wf g w false := by
  obtain ⟨⟨hw, -, hrs, hws⟩, hsum, hseen⟩ := h
  have hn := hg.one_le_n
  simp only [Bool.toNat_true] at hseen
  have hfront := pointerDistance_advance_left hg (p := p.rPtr) (q := p.rPtrSyncW) (d := 1) (by omega)
  have hrear := pointerDistance_advance_right hg (p := p.wPtrSyncR) (q := p.rPtr) hseen
  refine ⟨⟨hw, pointerAdvance_lt hg _ _, hrs, hws⟩, ?_, Nat.zero_le _⟩
  simp only [hfront, hrear]
  omega

theorem syncR2W (h : p.Wf g w r) (hg : g.InRange) (d : Nat) :
    ({ p with rPtrSyncW := syncPointer g p.rPtr p.rPtrSyncW d } : GrayPointers).Wf g w r := by
  obtain ⟨-, hd, hmoved⟩ | ⟨-, hstays⟩ := syncPointer_cases g p.rPtr p.rPtrSyncW d
  · obtain ⟨⟨hw, hr, -, hws⟩, hsum, hseen⟩ := h
    have hrear := pointerDistance_advance_right hg hd
    rw [hmoved]
    refine ⟨⟨hw, hr, pointerAdvance_lt hg _ _, hws⟩, ?_, hseen⟩
    simp only [hrear]
    omega
  · rwa [hstays]

theorem syncW2R (h : p.Wf g w r) (hg : g.InRange) (d : Nat) :
    ({ p with wPtrSyncR := syncPointer g p.wPtr p.wPtrSyncR d } : GrayPointers).Wf g w r := by
  obtain ⟨-, hd, hmoved⟩ | ⟨-, hstays⟩ := syncPointer_cases g p.wPtr p.wPtrSyncR d
  · obtain ⟨⟨hw, hr, hrs, -⟩, hsum, hseen⟩ := h
    have hn := hg.one_le_n
    have hfront := pointerDistance_advance_left hg (p := p.wPtrSyncR) (q := p.rPtr) (d := d) (by omega)
    have hrear := pointerDistance_advance_right hg hd
    rw [hmoved]
    refine ⟨⟨hw, hr, hrs, pointerAdvance_lt hg _ _⟩, ?_, ?_⟩
    · simp only [hfront, hrear]
      omega
    · simp only [hfront]
      omega
  · rwa [hstays]

end GrayPointers.Wf

/-! ## The legal counters -/

namespace Semaphores.Wf

variable {g : QueueParams} {c : Semaphores} {w r : Bool}

theorem acquireWrite (h : c.Wf g false r) (hfree : 0 < c.semW.toNat) :
    ({ c with semW := c.semW - 1 } : Semaphores).Wf g true r := by
  obtain ⟨hw, hr, hsum, hring⟩ := h
  refine ⟨hw, hr, ?_, hring⟩
  simp only [Count.toNat_sub_one hfree, Bool.toNat_true, Bool.toNat_false] at hsum ⊢
  omega

theorem releaseWrite (h : c.Wf g true r) (hg : g.InRange) :
    ({ c with wIdx := nextIndex g c.wIdx, semR := c.semR + 1 } : Semaphores).Wf g false r := by
  obtain ⟨hw, hr, hsum, hring⟩ := h
  have hn := hg.one_le_n
  have hn' := hg.n_le
  have hsemR : (c.semR + 1).toNat = c.semR.toNat + 1 := Count.toNat_add_one (by omega)
  have hnext := nextIndex_toNat g c.wIdx hn hn'
  refine ⟨hnext ▸ Nat.mod_lt _ hn, hr, ?_, ?_⟩
  · simp only [hsemR, Bool.toNat_true, Bool.toNat_false] at hsum ⊢
    omega
  · simp only [hnext, hsemR]
    rw [hring, Nat.mod_add_mod]
    exact congrArg (· % g.n) (by omega)

theorem acquireRead (h : c.Wf g w false) (hsome : 0 < c.semR.toNat) :
    ({ c with semR := c.semR - 1 } : Semaphores).Wf g w true := by
  obtain ⟨hw, hr, hsum, hring⟩ := h
  have hF : (c.semR - 1).toNat + true.toNat = c.semR.toNat + false.toNat := by
    rw [Count.toNat_sub_one hsome, Bool.toNat_true, Bool.toNat_false]
    omega
  refine ⟨hw, hr, ?_, ?_⟩
  · simp only at hsum ⊢
    omega
  · simpa only [hF] using hring

theorem freeRead (h : c.Wf g w true) (hg : g.InRange) :
    ({ c with rIdx := nextIndex g c.rIdx, semW := c.semW + 1 } : Semaphores).Wf g w false := by
  obtain ⟨hw, hr, hsum, hring⟩ := h
  have hn := hg.one_le_n
  have hn' := hg.n_le
  have hsemW : (c.semW + 1).toNat = c.semW.toNat + 1 := Count.toNat_add_one (by omega)
  have hnext := nextIndex_toNat g c.rIdx hn hn'
  refine ⟨hw, hnext ▸ Nat.mod_lt _ hn, ?_, ?_⟩
  · simp only [hsemW, Bool.toNat_true, Bool.toNat_false] at hsum ⊢
    omega
  · simp only [hnext]
    rw [hring, Nat.mod_add_mod]
    exact congrArg (· % g.n) (by simp only [Bool.toNat_true, Bool.toNat_false]; omega)

end Semaphores.Wf

/-! ## What the arbiter operations do to the ring of slots -/

section Ring

variable {g : QueueParams} {q : Queue}

@[simp] theorem Queue.acquireWrite_filled : q.acquireWrite.filled g = q.filled g := by
  cases ha : q.arbiter with
  | semaphore c => simp [Queue.filled, Queue.acquireWrite, ha]
  | grayCdc p => simp [Queue.filled, Queue.acquireWrite, ha]

@[simp] theorem Queue.acquireWrite_readSlot : q.acquireWrite.readSlot g = q.readSlot g := by
  cases ha : q.arbiter with
  | semaphore c => simp [Queue.readSlot, Queue.acquireWrite, ha]
  | grayCdc p => simp [Queue.readSlot, Queue.acquireWrite, ha]

@[simp] theorem Queue.acquireWrite_writeSlot : q.acquireWrite.writeSlot g = q.writeSlot g := by
  cases ha : q.arbiter with
  | semaphore c => simp [Queue.writeSlot, Queue.acquireWrite, ha]
  | grayCdc p => simp [Queue.writeSlot, Queue.acquireWrite, ha]

@[simp] theorem Queue.releaseWrite_readSlot : (q.releaseWrite g).readSlot g = q.readSlot g := by
  cases ha : q.arbiter with
  | semaphore c => simp [Queue.readSlot, Queue.releaseWrite, ha]
  | grayCdc p => simp [Queue.readSlot, Queue.releaseWrite, ha]

@[simp] theorem Queue.acquireRead_readSlot : q.acquireRead.readSlot g = q.readSlot g := by
  cases ha : q.arbiter with
  | semaphore c => simp [Queue.readSlot, Queue.acquireRead, ha]
  | grayCdc p => simp [Queue.readSlot, Queue.acquireRead, ha]

@[simp] theorem Queue.syncR2W_readSlot (d : Nat) : (q.syncR2W g d).readSlot g = q.readSlot g := by
  cases ha : q.arbiter with
  | semaphore c => rw [Queue.syncR2W_semaphore ha]
  | grayCdc p => simp [Queue.readSlot, Queue.syncR2W, ha]

@[simp] theorem Queue.syncW2R_readSlot (d : Nat) : (q.syncW2R g d).readSlot g = q.readSlot g := by
  cases ha : q.arbiter with
  | semaphore c => rw [Queue.syncW2R_semaphore ha]
  | grayCdc p => simp [Queue.readSlot, Queue.syncW2R, ha]

@[simp] theorem Queue.syncR2W_filled (d : Nat) : (q.syncR2W g d).filled g = q.filled g := by
  cases ha : q.arbiter with
  | semaphore c => rw [Queue.syncR2W_semaphore ha]
  | grayCdc p => simp [Queue.filled, Queue.syncR2W, ha]

@[simp] theorem Queue.syncW2R_filled (d : Nat) : (q.syncW2R g d).filled g = q.filled g := by
  cases ha : q.arbiter with
  | semaphore c => rw [Queue.syncW2R_semaphore ha]
  | grayCdc p => simp [Queue.filled, Queue.syncW2R, ha]

theorem Queue.ArbiterWf.acquireWrite (h : q.ArbiterWf g) (hn : 1 ≤ g.n) (hheld : q.wHeld = false)
    (hfree : q.canAcquireWrite g = true) : q.acquireWrite.ArbiterWf g := by
  cases ha : q.arbiter with
  | semaphore c =>
    rw [Queue.arbiterWf_semaphore ha, hheld] at h
    rw [Queue.acquireWrite_semaphore ha]
    exact ⟨h.1, h.2.acquireWrite (by simpa [Queue.canAcquireWrite, ha] using hfree)⟩
  | grayCdc p =>
    rw [Queue.arbiterWf_grayCdc ha, hheld] at h
    rw [Queue.acquireWrite_grayCdc ha]
    exact ⟨h.1, h.2.acquireWrite hn (by simpa [Queue.canAcquireWrite, ha] using hfree)⟩

theorem Queue.ArbiterWf.releaseWrite (h : q.ArbiterWf g) (hg : g.InRange) (hheld : q.wHeld = true) :
    (q.releaseWrite g).ArbiterWf g := by
  cases ha : q.arbiter with
  | semaphore c =>
    rw [Queue.arbiterWf_semaphore ha, hheld] at h
    rw [Queue.releaseWrite_semaphore g ha]
    exact ⟨h.1, h.2.releaseWrite hg⟩
  | grayCdc p =>
    rw [Queue.arbiterWf_grayCdc ha, hheld] at h
    rw [Queue.releaseWrite_grayCdc ha g]
    exact ⟨h.1, h.2.releaseWrite hg⟩

theorem Queue.ArbiterWf.acquireRead (h : q.ArbiterWf g) (hheld : q.rHeld = false)
    (hsome : q.canAcquireRead g = true) : q.acquireRead.ArbiterWf g := by
  cases ha : q.arbiter with
  | semaphore c =>
    rw [Queue.arbiterWf_semaphore ha, hheld] at h
    rw [Queue.acquireRead_semaphore ha]
    exact ⟨h.1, h.2.acquireRead (by simpa [Queue.canAcquireRead, ha] using hsome)⟩
  | grayCdc p =>
    rw [Queue.arbiterWf_grayCdc ha, hheld] at h
    rw [Queue.acquireRead_grayCdc ha]
    exact ⟨h.1, h.2.acquireRead (by simpa [Queue.canAcquireRead, ha] using hsome)⟩

theorem Queue.ArbiterWf.freeReadSlot (h : q.ArbiterWf g) (hg : g.InRange) (hheld : q.rHeld = true) :
    (q.freeReadSlot g).ArbiterWf g := by
  cases ha : q.arbiter with
  | semaphore c =>
    rw [Queue.arbiterWf_semaphore ha, hheld] at h
    rw [Queue.freeReadSlot_semaphore ha g]
    exact ⟨h.1, h.2.freeRead hg⟩
  | grayCdc p =>
    rw [Queue.arbiterWf_grayCdc ha, hheld] at h
    rw [Queue.freeReadSlot_grayCdc ha g]
    exact ⟨h.1, h.2.freeRead hg⟩

theorem Queue.ArbiterWf.syncR2W (h : q.ArbiterWf g) (hg : g.InRange) (d : Nat) : (q.syncR2W g d).ArbiterWf g := by
  cases ha : q.arbiter with
  | semaphore c => rwa [Queue.syncR2W_semaphore ha]
  | grayCdc p =>
    rw [Queue.arbiterWf_grayCdc ha] at h
    rw [Queue.syncR2W_grayCdc ha]
    exact ⟨h.1, h.2.syncR2W hg d⟩

theorem Queue.ArbiterWf.syncW2R (h : q.ArbiterWf g) (hg : g.InRange) (d : Nat) : (q.syncW2R g d).ArbiterWf g := by
  cases ha : q.arbiter with
  | semaphore c => rwa [Queue.syncW2R_semaphore ha]
  | grayCdc p =>
    rw [Queue.arbiterWf_grayCdc ha] at h
    rw [Queue.syncW2R_grayCdc ha]
    exact ⟨h.1, h.2.syncW2R hg d⟩

/-- A released slot is one more filled slot (R69, R85). -/
theorem Queue.ArbiterWf.releaseWrite_filled (h : q.ArbiterWf g) (hg : g.InRange) (hheld : q.wHeld = true) :
    (q.releaseWrite g).filled g = q.filled g + 1 := by
  have hn := hg.one_le_n
  have hn' := hg.n_le
  have hle := h.filled_add_wHeld_le hn
  rw [hheld, Bool.toNat_true] at hle
  cases ha : q.arbiter with
  | semaphore c =>
    rw [Queue.filled_semaphore ha] at hle ⊢
    have hsemR : (c.semR + 1).toNat = c.semR.toNat + 1 := Count.toNat_add_one (by omega)
    rw [Queue.releaseWrite_semaphore g ha, Queue.filled_semaphore rfl, hsemR]
    exact Nat.add_right_comm _ _ _
  | grayCdc p =>
    rw [Queue.filled_grayCdc ha] at hle ⊢
    rw [Queue.releaseWrite_grayCdc ha g, Queue.filled_grayCdc rfl]
    exact pointerDistance_advance_left hg (q := p.rPtr) (by omega)

/-- An acquired read slot stays a filled slot until its release (R17, R75). -/
theorem Queue.acquireRead_filled (hheld : q.rHeld = false) (hsome : q.canAcquireRead g = true) :
    q.acquireRead.filled g = q.filled g := by
  cases ha : q.arbiter with
  | semaphore c =>
    have hpos : 0 < c.semR.toNat := by simpa [Queue.canAcquireRead, ha] using hsome
    rw [Queue.acquireRead_semaphore ha, Queue.filled_semaphore rfl, Queue.filled_semaphore ha,
      Count.toNat_sub_one hpos, hheld, Bool.toNat_true, Bool.toNat_false]
    omega
  | grayCdc p => rw [Queue.acquireRead_grayCdc ha, Queue.filled_grayCdc rfl, Queue.filled_grayCdc ha]

/-- A freed read slot is one filled slot less (R76, R85). -/
theorem Queue.ArbiterWf.freeReadSlot_filled (h : q.ArbiterWf g) (hg : g.InRange) (hheld : q.rHeld = true) :
    (q.freeReadSlot g).filled g + 1 = q.filled g := by
  have hle := h.rHeld_le_filled hg.one_le_n
  rw [hheld, Bool.toNat_true] at hle
  cases ha : q.arbiter with
  | semaphore c =>
    rw [Queue.freeReadSlot_semaphore ha g, Queue.filled_semaphore rfl, Queue.filled_semaphore ha, hheld]
    rfl
  | grayCdc p =>
    rw [Queue.filled_grayCdc ha] at hle ⊢
    rw [Queue.freeReadSlot_grayCdc ha g, Queue.filled_grayCdc rfl, pointerDistance_advance_right hg hle]
    omega

/-- The read slot moves on by one place when it is freed (R76, R82). -/
theorem Queue.freeReadSlot_readSlot (hg : g.InRange) :
    (q.freeReadSlot g).readSlot g = (q.readSlot g + 1) % g.n := by
  cases ha : q.arbiter with
  | semaphore c =>
    rw [Queue.freeReadSlot_semaphore ha g, Queue.readSlot_semaphore rfl, Queue.readSlot_semaphore ha]
    exact nextIndex_toNat g c.rIdx hg.one_le_n hg.n_le
  | grayCdc p =>
    rw [Queue.freeReadSlot_grayCdc ha g, Queue.readSlot_grayCdc rfl, Queue.readSlot_grayCdc ha, Nat.mod_add_mod]
    exact (pointerAdvance_modEq hg p.rPtr 1).of_mul_left 2

end Ring

end Sys2Proof.Machine
end

section
/-! The invariant of a queue (R14, R16, R17, R19, R30, R31, R87 (a)) is kept by every move that an event can make. Its part
about slots and storage does not speak of the arbiter, so each half is carried through an operation on its own. -/

namespace Sys2Proof.Machine

/-! ## Places in the ring and regions of the RAM -/

/-- Two places less than `n` steps after `r` in a ring of `n` are the same only for the same number of steps. -/
theorem ring_inj {r i k n : Nat} (hi : i < n) (hk : k < n) (h : (r + i) % n = (r + k) % n) : i = k :=
  Nat.ModEq.eq_of_lt_of_lt (Nat.ModEq.add_left_cancel' r h) hi hk

/-- No byte of a slot has its address in the region of another slot (R32). -/
theorem Queue.byteAddr_not_mem_region {g : QueueParams} (q : Queue) {j k : Nat} (hcap : 1 ≤ g.cap) (hk : k ≠ j) (i : Nat) :
    ¬ (j * g.cap ≤ q.byteAddr g k i ∧ q.byteAddr g k i < (j + 1) * g.cap) := by
  obtain ⟨hlow, hhigh⟩ : k * g.cap ≤ q.byteAddr g k i ∧ q.byteAddr g k i < (k + 1) * g.cap :=
    slotAddr_region (Nat.mod_lt _ hcap)
  obtain hlt | hgt := lt_or_gt_of_ne hk
  · have := Nat.mul_le_mul_right g.cap (show k + 1 ≤ j from hlt)
    omega
  · have := Nat.mul_le_mul_right g.cap (show j + 1 ≤ k from hgt)
    omega

/-- The bytes of a slot stay where its cursors stay and no byte of another region is looked at. -/
theorem Queue.slotBytes_of_other_region {g : QueueParams} {q q' : Queue} {j k : Nat} (hcap : 1 ≤ g.cap) (hk : k ≠ j)
    (hslot : q'.slot k = q.slot k)
    (hread : ∀ a, ¬ (j * g.cap ≤ a ∧ a < (j + 1) * g.cap) → q'.ram.read a = q.ram.read a) :
    q'.slotBytes g k = q.slotBytes g k := by
  have haddr (i : Nat) : q'.byteAddr g k i = q.byteAddr g k i := by rw [Queue.byteAddr, hslot, Queue.byteAddr]
  simp only [Queue.slotBytes, hslot, haddr, hread _ (q.byteAddr_not_mem_region hcap hk _)]

theorem Queue.slotBytes_of_empty {g : QueueParams} {q : Queue} {j : Nat} (h : q.slot j = Slot.empty) :
    q.slotBytes g j = [] := by
  rw [Queue.slotBytes, h]
  rfl

theorem Queue.slotBytes_length (g : QueueParams) (q : Queue) (j : Nat) :
    (q.slotBytes g j).length = (q.slot j).cnt.toNat := by
  simp [Queue.slotBytes]

/-! ## Removing one byte -/

/-- The slot after its oldest byte is gone: the read cursor moves on, the count shrinks (R63). -/
def Slot.popped (g : QueueParams) (s : Slot) : Slot := { s with rd := nextCursor g s.rd, cnt := s.cnt - 1 }

/-- The queue after CB_RemoveByte on a slot that is not empty (R63); `cbRemoveByte_of_pos` ties it to the operation. -/
def Queue.pop (g : QueueParams) (j : Nat) (q : Queue) : Queue := q.setSlot j ((q.slot j).popped g)

theorem Slot.popped_cnt {g : QueueParams} {s : Slot} (h : s.cnt.toNat ≠ 0) : (s.popped g).cnt.toNat = s.cnt.toNat - 1 := by
  have hpos : 1 ≤ s.cnt.toNat := Nat.pos_of_ne_zero h
  exact BitVec.toNat_sub_of_le (y := 1) hpos

theorem Slot.popped_rd {g : QueueParams} {s : Slot} (hone : 1 ≤ g.cap) (hcap : g.cap ≤ 65535) :
    (s.popped g).rd.toNat = (s.rd.toNat + 1) % g.cap :=
  nextCursor_toNat g s.rd hone hcap

theorem Slot.Wf.popped {g : QueueParams} {s : Slot} (h : s.Wf g.cap) (hone : 1 ≤ g.cap) (hcap : g.cap ≤ 65535)
    (hpos : s.cnt.toNat ≠ 0) : (s.popped g).Wf g.cap := by
  obtain ⟨hcnt, -, hwr, hring⟩ := h
  rw [Slot.Wf, Slot.popped_cnt hpos, Slot.popped_rd hone hcap]
  refine ⟨by omega, Nat.mod_lt _ hone, hwr, ?_⟩
  rw [Nat.mod_add_mod, Nat.add_assoc, Nat.add_sub_cancel' (Nat.pos_of_ne_zero hpos)]
  exact hring

theorem Queue.pop_slot {g : QueueParams} {j : Nat} {q : Queue} (hslot : j < q.slots.length) :
    (q.pop g j).slot j = (q.slot j).popped g :=
  Queue.setSlot_slot q j _ hslot

theorem Queue.pop_slot_other {g : QueueParams} {q : Queue} {j k : Nat} (h : k ≠ j) : (q.pop g j).slot k = q.slot k :=
  Queue.setSlot_slot_other q j k _ h

theorem Queue.pop_slots_length (g : QueueParams) (q : Queue) (j : Nat) :
    (q.pop g j).slots.length = q.slots.length := Queue.setSlot_length _ _ _

/-- The oldest byte is gone, and the second oldest is the oldest now. -/
theorem Queue.pop_byteAddr {g : QueueParams} {q : Queue} {j : Nat} (hone : 1 ≤ g.cap) (hcap : g.cap ≤ 65535)
    (hslot : j < q.slots.length) (i : Nat) :
    (q.pop g j).byteAddr g j i = q.byteAddr g j (i + 1) := by
  rw [Queue.byteAddr, Queue.pop_slot hslot, Slot.popped_rd hone hcap, Nat.mod_add_mod, Queue.byteAddr, Nat.add_assoc,
    Nat.add_comm 1 i]

theorem Queue.slotBytes_eq_cons_pop {g : QueueParams} {q : Queue} {j : Nat} (hone : 1 ≤ g.cap) (hcap : g.cap ≤ 65535)
    (hslot : j < q.slots.length) (hpos : (q.slot j).cnt.toNat ≠ 0) :
    q.slotBytes g j = q.ram.read (q.byteAddr g j 0) :: (q.pop g j).slotBytes g j := by
  obtain ⟨n, hn⟩ := Nat.exists_eq_succ_of_ne_zero hpos
  rw [Queue.slotBytes, Queue.slotBytes, Queue.pop_slot hslot, Slot.popped_cnt hpos, hn, Nat.succ_sub_one,
    List.range_succ_eq_map, List.map_cons, List.map_map]
  refine congrArg (q.ram.read (q.byteAddr g j 0) :: ·) (List.map_congr_left fun i _ => ?_)
  rw [Queue.pop_byteAddr hone hcap hslot]
  rfl

/-- The read cursor stands at the oldest byte (R14). -/
theorem Slot.Wf.slotAddr_rd {g : QueueParams} {q : Queue} {j : Nat} (h : (q.slot j).Wf g.cap) :
    slotAddr g j (q.slot j).rd.toNat = q.byteAddr g j 0 := by
  obtain ⟨-, hrd, -, -⟩ := h
  rw [Queue.byteAddr, Nat.add_zero, Nat.mod_eq_of_lt hrd]

theorem cbRemoveByte_of_pos {g : QueueParams} {j : Nat} {q : Queue} {b : Byte} (hj : j < g.n) (hwf : (q.slot j).Wf g.cap)
    (hpos : (q.slot j).cnt.toNat ≠ 0) (hread : q.ram.read (q.byteAddr g j 0) = some b) :
    cbRemoveByte g j q = .ok { st := .ok, value := b, q := q.pop g j } := by
  have haddr := hwf.slotAddr_rd (g := g)
  obtain ⟨-, hrd, -, -⟩ := hwf
  exact cbRemoveByte_removes hpos (slotAddr_lt_ramSize hj hrd) (haddr ▸ hread)

/-! ## Slots and storage -/

/-- What the invariant of a queue says of its slots and its RAM, whatever the arbiter holds (R14, R30, R31). -/
structure Queue.StorageWf (g : QueueParams) (q : Queue) : Prop where
  slots_length : q.slots.length = g.n
  slots_wf : ∀ j < g.n, (q.slot j).Wf g.cap
  written : ∀ j < g.n, ∀ v ∈ q.slotBytes g j, v.isSome = true
  ram_wf : q.ram.wf
  ram_range : ∀ c ∈ q.ram, c.1 < ramSize g

/-- R19: every slot neither filled nor held for writing is empty. -/
def Queue.IdleEmpty (g : QueueParams) (q : Queue) : Prop :=
  ∀ i < g.n, q.filled g + q.wHeld.toNat ≤ i → q.slot ((q.readSlot g + i) % g.n) = Slot.empty

theorem Queue.slotBytes_written_iff {g : QueueParams} {q : Queue} {j : Nat} :
    (∀ v ∈ q.slotBytes g j, v.isSome = true) ↔
      ∀ i < (q.slot j).cnt.toNat, (q.ram.read (q.byteAddr g j i)).isSome = true := by
  simp [Queue.slotBytes]

/-- The invariant of a queue is what it says of the storage, of the arbiter and of the idle slots. -/
theorem Queue.wf_iff {g : QueueParams} {q : Queue} : q.Wf g ↔ q.StorageWf g ∧ q.ArbiterWf g ∧ q.IdleEmpty g := by
  constructor
  · intro h
    exact ⟨⟨h.slots_length, h.slots_wf, fun j hj => Queue.slotBytes_written_iff.2 (h.bytes_written j hj), h.ram_wf,
      h.ram_range⟩, h.arbiter_wf, h.idle_slots_empty⟩
  · rintro ⟨h, harb, hidle⟩
    exact ⟨h.slots_length, h.slots_wf, harb, hidle, fun j hj => Queue.slotBytes_written_iff.1 (h.written j hj), h.ram_wf,
      h.ram_range⟩

namespace Queue.StorageWf

variable {g : QueueParams} {q q' : Queue} {j : Nat}

theorem congr (h : q.StorageWf g) (hslots : q'.slots = q.slots) (hram : q'.ram = q.ram) : q'.StorageWf g where
  slots_length := hslots ▸ h.slots_length
  slots_wf k hk := Queue.slot_congr hslots k ▸ h.slots_wf k hk
  written k hk := Queue.slotBytes_congr hslots hram g k ▸ h.written k hk
  ram_wf := hram ▸ h.ram_wf
  ram_range := hram ▸ h.ram_range

/-- An operation on slot `j` has only its own slot to care for. -/
theorem of_update (h : q.StorageWf g) (hcap : 1 ≤ g.cap) (hlen : q'.slots.length = q.slots.length)
    (hslot : (q'.slot j).Wf g.cap) (hbytes : ∀ v ∈ q'.slotBytes g j, v.isSome = true)
    (hother : ∀ k, k ≠ j → q'.slot k = q.slot k)
    (hread : ∀ a, ¬ (j * g.cap ≤ a ∧ a < (j + 1) * g.cap) → q'.ram.read a = q.ram.read a)
    (hwf : q'.ram.wf) (hrange : ∀ c ∈ q'.ram, c.1 < ramSize g) : q'.StorageWf g where
  slots_length := hlen.trans h.slots_length
  slots_wf k hk := by
    by_cases hkj : k = j
    · exact hkj ▸ hslot
    · exact hother k hkj ▸ h.slots_wf k hk
  written k hk := by
    by_cases hkj : k = j
    · exact hkj ▸ hbytes
    · exact Queue.slotBytes_of_other_region hcap hkj (hother k hkj) hread ▸ h.written k hk
  ram_wf := hwf
  ram_range := hrange

theorem push (h : q.StorageWf g) (hg : g.InRange) (hj : j < g.n) (b : Byte) (hlt : (q.slot j).cnt.toNat < g.cap) :
    (q.push g j b).StorageWf g := by
  have hwf := h.slots_wf j hj
  have happ := Queue.appended_push b hg.cap_le (hj.trans_eq h.slots_length.symm) hwf hlt
  refine h.of_update hg.one_le_cap happ.slots_length happ.slot_wf ?_ happ.other_slots happ.other_bytes
    (Memory.write_wf _ _ _ h.ram_wf) fun c hc => ?_
  · rw [happ.slotBytes]
    intro v hv
    obtain hold | hnew := List.mem_append.1 hv
    · exact h.written j hj v hold
    · obtain rfl : v = some b := by simpa using hnew
      rfl
  · obtain rfl | hold := Memory.mem_write _ _ _ _ hc
    · obtain ⟨-, -, hwr, -⟩ := hwf
      exact slotAddr_lt_ramSize hj hwr
    · exact h.ram_range c hold

theorem pop (h : q.StorageWf g) (hg : g.InRange) (hj : j < g.n) (hpos : (q.slot j).cnt.toNat ≠ 0) :
    (q.pop g j).StorageWf g := by
  have hslot : j < q.slots.length := hj.trans_eq h.slots_length.symm
  refine h.of_update hg.one_le_cap (Queue.pop_slots_length g q j) ?_ ?_ (fun k hk => Queue.pop_slot_other hk)
    (fun _ _ => rfl) h.ram_wf h.ram_range
  · rw [Queue.pop_slot hslot]
    exact (h.slots_wf j hj).popped hg.one_le_cap hg.cap_le hpos
  · intro v hv
    refine h.written j hj v ?_
    rw [Queue.slotBytes_eq_cons_pop hg.one_le_cap hg.cap_le hslot hpos]
    exact List.mem_cons_of_mem _ hv

theorem cbReset (h : q.StorageWf g) (hg : g.InRange) (hj : j < g.n) : (cbReset g j q).StorageWf g := by
  have hslot : (Machine.cbReset g j q).slot j = Slot.empty :=
    Queue.setSlot_slot q j _ (hj.trans_eq h.slots_length.symm)
  refine h.of_update (j := j) hg.one_le_cap (Queue.setSlot_length q j _) ?_ ?_
    (fun k hk => Queue.setSlot_slot_other q j k _ hk) (fun a ha => ?_) (Memory.forget_wf _ _ _ h.ram_wf)
    fun c hc => h.ram_range c (Memory.mem_forget _ _ _ c hc)
  · exact hslot ▸ Slot.empty_wf hg.one_le_cap
  · rw [Queue.slotBytes_of_empty hslot]
    exact fun v hv => absurd hv List.not_mem_nil
  · rw [cbReset_read, if_neg (by rwa [← Nat.succ_mul])]

theorem addByte {b : Byte} {r : Reply} (h : q.StorageWf g) (hg : g.InRange) (hj : j < g.n)
    (hr : cbAddByte g j b q = .ok r) : r.q.StorageWf g := by
  obtain ⟨-, rfl⟩ | ⟨hne, -, rfl⟩ := cbAddByte_ok g j b q r hr
  · exact h
  · exact h.push hg hj b (lt_of_le_of_ne (h.slots_wf j hj).1 hne)

/-- CB_WriteBlock is a sequence of appends (R65). -/
theorem writeBlock {bytes : List Byte} {sts : List Status} (h : q.StorageWf g) (hg : g.InRange) (hj : j < g.n)
    (hrun : cbWriteBlock g j bytes q = .ok (sts, q')) : q'.StorageWf g := by
  induction bytes generalizing q sts with
  | nil =>
    obtain ⟨-, rfl⟩ : [] = sts ∧ q = q' := by simpa [cbWriteBlock] using hrun
    exact h
  | cons b rest ih =>
    obtain ⟨r, sts', hb, hrest⟩ := cbWriteBlock_cons_ok hrun
    exact ih (h.addByte hg hj hb) hrest

end Queue.StorageWf

theorem cbWriteBlock_appended {g : QueueParams} {q q' : Queue} {j : Nat} {bytes : List Byte} {sts : List Status}
    (hg : g.InRange) (hj : j < g.n) (hslot : j < q.slots.length) (hwf : (q.slot j).Wf g.cap)
    (hrun : cbWriteBlock g j bytes q = .ok (sts, q')) :
    Queue.Appended g j (bytes.take (g.cap - (q.slot j).cnt.toNat)) q q' := by
  obtain ⟨q'', hrun', happ⟩ := cbWriteBlock_appends hg.cap_le hj bytes hslot hwf (Nat.add_sub_of_le hwf.1)
  cases hrun'.symm.trans hrun
  exact happ

/-- What an acquire does to the arbiter depends on the arbiter alone. -/
theorem Queue.acquireWrite_arbiter_congr {q q' : Queue} (h : q'.arbiter = q.arbiter) :
    q'.acquireWrite.arbiter = q.acquireWrite.arbiter := by
  cases ha : q.arbiter with
  | semaphore c => rw [Queue.acquireWrite_semaphore (h.trans ha), Queue.acquireWrite_semaphore ha]
  | grayCdc p => rw [Queue.acquireWrite_grayCdc (h.trans ha), Queue.acquireWrite_grayCdc ha]

/-! ## The invariant of a queue, move by move -/

namespace Queue.Wf

variable {g : QueueParams} {q q' : Queue}

theorem storage (h : q.Wf g) : q.StorageWf g := (Queue.wf_iff.1 h).1

theorem writeSlot_lt (h : q.Wf g) (hg : g.InRange) : q.writeSlot g < g.n := h.arbiter_wf.writeSlot_lt hg.one_le_n

theorem readSlot_lt (h : q.Wf g) (hg : g.InRange) : q.readSlot g < g.n := h.arbiter_wf.readSlot_lt hg.one_le_n

/-- The invariant after a move that touches the arbiter alone and takes no slot into use from behind. -/
theorem of_same_storage (h : q.Wf g) (hslots : q'.slots = q.slots) (hram : q'.ram = q.ram) (harb : q'.ArbiterWf g)
    (hread : q'.readSlot g = q.readSlot g) (hused : q.filled g + q.wHeld.toNat ≤ q'.filled g + q'.wHeld.toNat) :
    q'.Wf g := by
  refine Queue.wf_iff.2 ⟨h.storage.congr hslots hram, harb, fun i hi hle => ?_⟩
  rw [Queue.slot_congr hslots, hread]
  exact h.idle_slots_empty i hi (hused.trans hle)

theorem acquireWrite (h : q.Wf g) (hg : g.InRange) (hheld : q.wHeld = false) (hfree : q.canAcquireWrite g = true) :
    q.acquireWrite.Wf g :=
  h.of_same_storage q.acquireWrite_slots q.acquireWrite_ram (h.arbiter_wf.acquireWrite hg.one_le_n hheld hfree)
    Queue.acquireWrite_readSlot (by simp [hheld])

theorem releaseWrite (h : q.Wf g) (hg : g.InRange) (hheld : q.wHeld = true) : (q.releaseWrite g).Wf g :=
  h.of_same_storage (q.releaseWrite_slots g) (q.releaseWrite_ram g) (h.arbiter_wf.releaseWrite hg hheld)
    Queue.releaseWrite_readSlot (by simp [hheld, h.arbiter_wf.releaseWrite_filled hg hheld])

theorem acquireRead (h : q.Wf g) (hheld : q.rHeld = false) (hsome : q.canAcquireRead g = true) : q.acquireRead.Wf g :=
  h.of_same_storage q.acquireRead_slots q.acquireRead_ram (h.arbiter_wf.acquireRead hheld hsome)
    Queue.acquireRead_readSlot (by simp [Queue.acquireRead_filled hheld hsome])

theorem syncR2W (h : q.Wf g) (hg : g.InRange) (d : Nat) : (q.syncR2W g d).Wf g :=
  h.of_same_storage (q.syncR2W_slots g d) (q.syncR2W_ram g d) (h.arbiter_wf.syncR2W hg d) (Queue.syncR2W_readSlot d)
    (by simp)

theorem syncW2R (h : q.Wf g) (hg : g.InRange) (d : Nat) : (q.syncW2R g d).Wf g :=
  h.of_same_storage (q.syncW2R_slots g d) (q.syncW2R_ram g d) (h.arbiter_wf.syncW2R hg d) (Queue.syncW2R_readSlot d)
    (by simp)

/-- The invariant after a change of a slot in use: the `i`-th place of the ring, filled or held for writing. -/
theorem of_used_slot {i : Nat} (h : q.Wf g) (hstore : q'.StorageWf g) (harb : q'.arbiter = q.arbiter)
    (hw : q'.wHeld = q.wHeld) (hr : q'.rHeld = q.rHeld) (hi : i < q.filled g + q.wHeld.toNat) (hin : i < g.n)
    (hother : ∀ k, k ≠ (q.readSlot g + i) % g.n → q'.slot k = q.slot k) : q'.Wf g := by
  have hfilled : q'.filled g = q.filled g := by simp only [Queue.filled, harb, hr]
  have hreadSlot : q'.readSlot g = q.readSlot g := by simp only [Queue.readSlot, harb]
  have harbiter : q'.ArbiterWf g := by
    simpa only [Queue.ArbiterWf, harb, hw, hr] using h.arbiter_wf
  refine Queue.wf_iff.2 ⟨hstore, harbiter, fun k hk hle => ?_⟩
  rw [hfilled, hw] at hle
  rw [hreadSlot, hother _ fun heq => ?_]
  · exact h.idle_slots_empty k hk hle
  · have := ring_inj hk hin heq
    omega

theorem addByte {b : Byte} {r : Reply} (h : q.Wf g) (hg : g.InRange) (hheld : q.wHeld = true)
    (hr : cbAddByte g (q.writeSlot g) b q = .ok r) : r.q.Wf g := by
  have hstore := h.storage.addByte hg (h.writeSlot_lt hg) hr
  have hle := h.arbiter_wf.filled_add_wHeld_le hg.one_le_n
  rw [hheld, Bool.toNat_true] at hle
  obtain ⟨-, rfl⟩ | ⟨-, -, rfl⟩ := cbAddByte_ok _ _ _ _ _ hr
  · exact h
  · refine h.of_used_slot (i := q.filled g) hstore rfl rfl rfl (by simp [hheld]) (by omega) fun k hk => ?_
    rw [← h.arbiter_wf.writeSlot_eq hg.one_le_n] at hk
    exact Queue.push_slot_other g q _ k b hk

theorem removeByte {r : Reply} (h : q.Wf g) (hg : g.InRange) (hheld : q.rHeld = true)
    (hr : cbRemoveByte g (q.readSlot g) q = .ok r) : r.q.Wf g := by
  have hlow := h.arbiter_wf.rHeld_le_filled hg.one_le_n
  rw [hheld, Bool.toNat_true] at hlow
  obtain ⟨-, rfl⟩ | ⟨hpos, -, v, -, rfl⟩ := cbRemoveByte_ok _ _ _ _ hr
  · exact h
  · refine h.of_used_slot (i := 0) (h.storage.pop hg (h.readSlot_lt hg) hpos) rfl rfl rfl (by omega) hg.one_le_n
      fun k hk => ?_
    rw [Nat.add_zero, Nat.mod_eq_of_lt (h.readSlot_lt hg)] at hk
    exact Queue.pop_slot_other hk

/-- The recycled slot becomes the last place of the ring, all others move up by one. -/
theorem releaseRead (h : q.Wf g) (hg : g.InRange) (hheld : q.rHeld = true) : (q.releaseRead g).Wf g := by
  have hj := h.readSlot_lt hg
  have hreset := h.storage.cbReset hg hj
  have harb : (cbReset g (q.readSlot g) q).ArbiterWf g := h.arbiter_wf
  have hfilled : (q.releaseRead g).filled g + 1 = q.filled g := harb.freeReadSlot_filled hg hheld
  have hread : (q.releaseRead g).readSlot g = (q.readSlot g + 1) % g.n := Queue.freeReadSlot_readSlot hg
  have hslots : (q.releaseRead g).slots = (q.setSlot (q.readSlot g) Slot.empty).slots := q.releaseRead_slots g
  refine Queue.wf_iff.2 ⟨hreset.congr (Queue.freeReadSlot_slots g _) (Queue.freeReadSlot_ram g _),
    harb.freeReadSlot hg hheld, fun i hi hle => ?_⟩
  rw [Queue.releaseRead_wHeld] at hle
  rw [hread, Nat.mod_add_mod, Nat.add_assoc, Nat.add_comm 1 i, Queue.slot_congr hslots]
  by_cases hlast : i + 1 = g.n
  · rw [hlast, Nat.add_mod_right, Nat.mod_eq_of_lt hj]
    exact Queue.setSlot_slot q _ _ (hj.trans_eq h.slots_length.symm)
  · rw [Queue.setSlot_slot_other _ _ _ _ (add_mod_ne_self hj (by omega) (by omega))]
    exact h.idle_slots_empty (i + 1) (by omega) (by omega)

/-- EMIT writes into the slot right after the filled ones, which is free. The invariant holds where that slot is acquired and
written, and not yet handed over (R100). -/
theorem acquireWritten {bytes : List Byte} {sts : List Status} (h : q.Wf g) (hg : g.InRange) (hheld : q.wHeld = false)
    (hfree : q.canAcquireWrite g = true) (hrun : cbWriteBlock g (q.writeSlot g) bytes q = .ok (sts, q')) :
    q'.acquireWrite.Wf g := by
  have hj := h.writeSlot_lt hg
  have hstore : q'.acquireWrite.StorageWf g :=
    (h.storage.writeBlock hg hj hrun).congr q'.acquireWrite_slots q'.acquireWrite_ram
  have happ := cbWriteBlock_appended hg hj (hj.trans_eq h.slots_length.symm) (h.slots_wf _ hj) hrun
  refine (h.acquireWrite hg hheld hfree).of_used_slot (i := q.filled g) hstore
    (Queue.acquireWrite_arbiter_congr happ.arbiter) (by simp) (by simp [happ.rHeld]) (by simp)
    (h.arbiter_wf.filled_lt hg.one_le_n hfree) fun k hk => ?_
  rw [Queue.acquireWrite_readSlot, ← h.arbiter_wf.writeSlot_eq hg.one_le_n] at hk
  rw [Queue.slot_congr q'.acquireWrite_slots, Queue.slot_congr q.acquireWrite_slots, happ.other_slots k hk]

/-- The hand-over of EMIT: the written slot is released in the same step (R100). -/
theorem handOver {bytes : List Byte} {sts : List Status} (h : q.Wf g) (hg : g.InRange) (hheld : q.wHeld = false)
    (hfree : q.canAcquireWrite g = true) (hrun : cbWriteBlock g (q.writeSlot g) bytes q = .ok (sts, q')) :
    (q'.acquireWrite.releaseWrite g).Wf g :=
  (h.acquireWritten hg hheld hfree hrun).releaseWrite hg q'.acquireWrite_wHeld

/-- The hand-over makes one more filled slot. -/
theorem handOver_filled {bytes : List Byte} {sts : List Status} (h : q.Wf g) (hg : g.InRange) (hheld : q.wHeld = false)
    (hfree : q.canAcquireWrite g = true) (hrun : cbWriteBlock g (q.writeSlot g) bytes q = .ok (sts, q')) :
    (q'.acquireWrite.releaseWrite g).filled g = q.filled g + 1 := by
  have hj := h.writeSlot_lt hg
  have happ := cbWriteBlock_appended hg hj (hj.trans_eq h.slots_length.symm) (h.slots_wf _ hj) hrun
  have hfilled : q'.filled g = q.filled g := by simp only [Queue.filled, happ.arbiter, happ.rHeld]
  rw [(h.acquireWritten hg hheld hfree hrun).arbiter_wf.releaseWrite_filled hg q'.acquireWrite_wHeld,
    Queue.acquireWrite_filled, hfilled]

end Queue.Wf

theorem Queue.Move.wf {g : QueueParams} {q q' : Queue} (hmove : Queue.Move g q q') (h : q.Wf g) (hg : g.InRange) :
    q'.Wf g := by
  cases hmove with
  | stay => exact h
  | acquireWrite hheld hfree => exact h.acquireWrite hg hheld hfree
  | releaseWrite hheld => exact h.releaseWrite hg hheld
  | addByte b r hheld hr => exact h.addByte hg hheld hr
  | acquireRead hheld hsome => exact h.acquireRead hheld hsome
  | releaseRead hheld => exact h.releaseRead hg hheld
  | removeByte r hheld hr => exact h.removeByte hg hheld hr
  | syncR2W d => exact h.syncR2W hg d
  | syncW2R d => exact h.syncW2R hg d

end Sys2Proof.Machine
end

section
/-! The invariant of the block: every effect of an event keeps it, and in a good state no rule reads a byte without a value or
leaves a storage array (R30 to R33). -/

namespace Sys2Proof.Machine

/-! ## The parser -/

/-- The length field of an error frame is the error kind negated (R9, R22 (c)). -/
theorem FramingError.length_toInt_mem (e : FramingError) : e.length.toInt ∈ [-1, -2, -3, -4, -5] := by
  cases e <;> decide

theorem FramingError.length_toInt_neg (e : FramingError) : ¬ 0 < e.length.toInt := by
  cases e <;> decide

/-- The length field of a success frame is the length byte itself (R97). -/
theorem zext16_toInt (v : Byte) : (zext16 v).toInt = v.toNat ∧ (zext16 v).toNat = v.toNat := by
  have hlt := v.isLt
  have hnat : (zext16 v).toNat = v.toNat := by
    simp only [zext16, BitVec.toNat_setWidth]
    exact Nat.mod_eq_of_lt (by omega)
  refine ⟨?_, hnat⟩
  rw [BitVec.toInt_eq_toNat_cond, if_pos (by omega), hnat]

/-- The length byte of an attempt with a payload (R96). -/
theorem Parser.input_length {p : Parser} {b : Byte} (hst : p.st = .awaitLength) (hb : 6 ≤ b.toNat) :
    p.input b = .ok { p with csum := p.csum ^^^ b, plen := b, idx := 0, st := .collectPayload, data := [] } := by
  rw [Parser.input, hst]
  exact congrArg Except.ok (if_pos hb)

/-- A length byte that leaves no payload (R96). -/
theorem Parser.input_badSize {p : Parser} {b : Byte} (hst : p.st = .awaitLength) (hb : ¬ 6 ≤ b.toNat) :
    p.input b = .ok (p.fail .badSize) := by
  rw [Parser.input, hst]
  exact congrArg Except.ok (if_neg hb)

namespace Parser.Wf

variable {p t : Parser} {b : Byte}

/-- A parser that neither collects nor has a frame pending needs only the ranges of R20. -/
theorem of_waiting (h : p.Wf) (hplen : t.plen = p.plen) (hidx : t.idx = p.idx) (hdata : t.data = p.data)
    (hst : t.st ≠ .collectPayload) (hpend : t.pend = false) : t.Wf where
  plen_range := hplen ▸ h.plen_range
  idx_range := hidx ▸ h.idx_range
  collecting hcollect := absurd hcollect hst
  collected hcollect := absurd hcollect hst
  pending_state hp := by simp [hpend] at hp
  pending_length hp := by simp [hpend] at hp
  pending_data hp := by simp [hpend] at hp
  data_wf := hdata ▸ h.data_wf
  data_range := hdata ▸ h.data_range

theorem fail (h : p.Wf) (e : FramingError) : (p.fail e).Wf where
  plen_range := h.plen_range
  idx_range := h.idx_range
  collecting hcollect := by simp at hcollect
  collected hcollect := by simp at hcollect
  pending_state _ := .inr rfl
  pending_length _ := .inl e.length_toInt_mem
  pending_data _ hpos := absurd hpos e.length_toInt_neg
  data_wf := h.data_wf
  data_range := h.data_range

/-- Clearing `pend` drops what R22 asks of a pending frame (R100). -/
theorem cleared (h : p.Wf) : ({ p with pend := false } : Parser).Wf where
  plen_range := h.plen_range
  idx_range := h.idx_range
  collecting := h.collecting
  collected := h.collected
  pending_state hp := by simp at hp
  pending_length hp := by simp at hp
  pending_data hp := by simp at hp
  data_wf := h.data_wf
  data_range := h.data_range

/-- An attempt begins to collect with nothing collected (R96). -/
theorem beginPayload (hpend : p.pend = false) (hb : 6 ≤ b.toNat) (c : Byte) :
    ({ p with csum := c, plen := b, idx := 0, st := .collectPayload, data := [] } : Parser).Wf where
  plen_range := .inr hb
  idx_range := Nat.zero_le _
  collecting _ := ⟨hb, hb⟩
  collected _ k hk := absurd hk (Nat.not_lt_zero k)
  pending_state hp := by simp [hpend] at hp
  pending_length hp := by simp [hpend] at hp
  pending_data hp := by simp [hpend] at hp
  data_wf := List.Pairwise.nil
  data_range c hc := absurd hc List.not_mem_nil

/-- A payload byte stands in the buffer next to those collected before (R97). -/
theorem store_read (h : p.Wf) (hst : p.st = .collectPayload) (b : Byte) :
    ∀ k < p.idx.toNat + 1, ((p.store b).data.read k).isSome = true := by
  intro k hk
  rw [Parser.store, Memory.read_write]
  split
  · rfl
  · exact h.collected hst k (by omega)

theorem store_idx (h : p.Wf) (hst : p.st = .collectPayload) (b : Byte) : (p.store b).idx.toNat = p.idx.toNat + 1 := by
  have hlt := h.idx_lt hst
  simp only [payloadSize] at hlt
  exact Nat.mod_eq_of_lt (show p.idx.toNat + 1 < 2 ^ 8 by omega)

theorem store_data_range (h : p.Wf) (hst : p.st = .collectPayload) (b : Byte) :
    ∀ c ∈ (p.store b).data, c.1 < payloadSize := by
  intro c hc
  obtain rfl | hold := Memory.mem_write _ _ _ _ hc
  · exact h.idx_lt hst
  · exact h.data_range c hold

theorem store (h : p.Wf) (hpend : p.pend = false) (hst : p.st = .collectPayload)
    (hmore : p.idx.toNat + 1 + headerSize ≠ p.plen.toNat) : (p.store b).Wf where
  plen_range := h.plen_range
  idx_range := by
    rw [h.store_idx hst]
    exact h.idx_lt hst
  collecting _ := by
    obtain ⟨hplen, hlt⟩ := h.collecting hst
    rw [h.store_idx hst]
    have hle : p.idx.toNat + 1 + headerSize ≤ p.plen.toNat := by
      simp only [headerSize] at hlt ⊢
      omega
    exact ⟨hplen, lt_of_le_of_ne hle hmore⟩
  collected _ := by
    rw [h.store_idx hst]
    exact h.store_read hst b
  pending_state hp := absurd hp (by simp [Parser.store, hpend])
  pending_length hp := absurd hp (by simp [Parser.store, hpend])
  pending_data hp := absurd hp (by simp [Parser.store, hpend])
  data_wf := Memory.write_wf _ _ _ h.data_wf
  data_range := h.store_data_range hst b

/-- The last payload byte leaves a success frame with all of its bytes written, or ChecksumMismatch (R97). -/
theorem storeLast (h : p.Wf) (hst : p.st = .collectPayload) (hlast : p.idx.toNat + 1 + headerSize = p.plen.toNat) :
    ({ (p.store b).emitFrame (if p.csum ^^^ b = 0 then zext16 p.plen else FramingError.checksumMismatch.length)
       with st := .awaitPreamble1 } : Parser).Wf where
  plen_range := h.plen_range
  idx_range := by
    simp only [Parser.emitFrame_idx, h.store_idx hst]
    exact h.idx_lt hst
  collecting hcollect := by simp at hcollect
  collected hcollect := by simp at hcollect
  pending_state _ := .inl rfl
  pending_length _ := by
    obtain ⟨hplen, -⟩ := h.collecting hst
    simp only [Parser.emitFrame_pendLen]
    split
    · obtain ⟨hint, -⟩ := zext16_toInt p.plen
      exact .inr (by rw [hint]; omega)
    · exact .inl (FramingError.length_toInt_mem _)
  pending_data _ := by
    simp only [Parser.emitFrame_pendLen, Parser.emitFrame_data]
    split
    · obtain ⟨-, hnat⟩ := zext16_toInt p.plen
      rw [hnat]
      intro _ k hk
      exact h.store_read hst b k (by omega)
    · exact fun hpos => absurd hpos (FramingError.length_toInt_neg _)
  data_wf := Memory.write_wf _ _ _ h.data_wf
  data_range := h.store_data_range hst b

/-- An input byte keeps the parser's invariant, state by state (R92 to R98). -/
theorem input (h : p.Wf) (hpend : p.pend = false) (hin : p.input b = .ok t) : t.Wf := by
  cases hst : p.st with
  | awaitPreamble1 =>
    by_cases hb : b = 0x03
    · subst hb
      cases (Parser.input_start (.inl hst)).symm.trans hin
      exact h.of_waiting rfl rfl rfl (by simp) hpend
    · cases (Parser.input_badPreamble1 hst hb).symm.trans hin
      exact h.fail _
  | awaitPreamble2 =>
    by_cases hb : b = 0xAF
    · subst hb
      cases (Parser.input_preamble2 hst).symm.trans hin
      exact h.of_waiting rfl rfl rfl (by simp) hpend
    · cases (Parser.input_badPreamble2 hst hb).symm.trans hin
      exact h.fail _
  | awaitPreamble3 =>
    by_cases hb : b = 0xEF
    · subst hb
      cases (Parser.input_preamble3 hst).symm.trans hin
      exact h.of_waiting rfl rfl rfl (by simp) hpend
    · cases (Parser.input_badPreamble3 hst hb).symm.trans hin
      exact h.fail _
  | awaitCommand =>
    cases (Parser.input_command hst).symm.trans hin
    exact h.of_waiting rfl rfl rfl (by simp) hpend
  | awaitLength =>
    by_cases hb : 6 ≤ b.toNat
    · cases (Parser.input_length hst hb).symm.trans hin
      exact beginPayload hpend hb _
    · cases (Parser.input_badSize hst hb).symm.trans hin
      exact h.fail _
  | collectPayload =>
    by_cases hlast : p.idx.toNat + 1 + headerSize = p.plen.toNat
    · cases (Parser.input_lastPayload hst (h.idx_lt hst) hlast).symm.trans hin
      exact h.storeLast hst hlast
    · cases (Parser.input_payload hst (h.idx_lt hst) hlast).symm.trans hin
      exact h.store hpend hst hlast
  | errorRecovery =>
    by_cases hb : b = 0x03
    · subst hb
      cases (Parser.input_start (.inr hst)).symm.trans hin
      exact h.of_waiting rfl rfl rfl (by simp) hpend
    · cases (Parser.input_noise hst hb).symm.trans hin
      exact h

end Parser.Wf

/-! ## FAULT and the ports -/

/-- The bits of a response word, field by field (R48). -/
theorem getLsbD_responseWord (st : Status) (d : Byte) (k : Nat) :
    (responseWord st d).getLsbD k =
      if k < 8 then d.getLsbD k else if k < 10 then st.code.getLsbD (k - 8) else false := by
  refine (BitVec.getLsbD_append (x := 0#6 ++ st.code) (y := d) (i := k)).trans ?_
  by_cases h : k < 8
  · simp [h]
  · rw [if_neg h, if_neg h]
    refine (BitVec.getLsbD_append (x := 0#6) (y := st.code) (i := k - 8)).trans ?_
    by_cases h' : k < 10
    · rw [if_pos h', if_pos (by omega)]
    · rw [if_neg h', if_neg (by omega)]
      exact BitVec.getLsbD_zero

theorem responseWord_upper (st : Status) (d : Byte) : (responseWord st d).extractLsb' 10 6 = 0 := by
  refine BitVec.eq_of_getLsbD_eq fun k _ => ?_
  rw [BitVec.getLsbD_extractLsb', getLsbD_responseWord, if_neg (by omega), if_neg (by omega)]
  simp

theorem State.FaultWf.congr {s t : State} (h : s.FaultWf) (hfault : t.fault = s.fault) (hfcmd : t.fcmd = s.fcmd) :
    t.FaultWf := by
  rw [State.FaultWf, hfault, hfcmd]
  exact h

theorem State.Effect.fault_wf {s t : State} {e : Event} (he : s.Effect e t) (h : s.FaultWf) : t.FaultWf := by
  cases he with
  | raised turn w c hc => exact .inr ⟨turn.port, c, hc, rfl⟩
  | reset => exact .inl ⟨rfl, rfl⟩
  | stays | noted | emitted => exact h
  | moved | byteTaken | syncedR2W | syncedW2R | presented => exact h.congr (by simp) (by simp)

theorem PortState.wf_presented (w : Word) : ({ cmd := some w, rsp := none } : PortState).Wf :=
  ⟨.inr rfl, fun _ h => by cases h⟩

theorem PortState.wf_answered (st : Status) (d : Byte) :
    ({ cmd := none, rsp := some (responseWord st d) } : PortState).Wf := by
  refine ⟨.inl rfl, fun r hr => ?_⟩
  cases hr
  exact responseWord_upper st d

theorem PortState.wf_idle : PortState.idle.Wf := ⟨.inl rfl, fun _ h => by cases h⟩

/-- Writing a port keeps the ports legal if the written one is. -/
theorem State.setPort_ports_wf {s : State} {p : Port} {v : PortState} (h : ∀ r, (s.port r).Wf) (hv : v.Wf) :
    ∀ r, ((s.setPort p v).port r).Wf := by
  intro r
  by_cases hr : r = p
  · subst hr
    rw [State.setPort_port]
    exact hv
  · rw [State.setPort_port_other _ _ _ _ hr]
    exact h r

/-- The ports do not depend on the fields that a state update leaves out. -/
theorem State.port_congr {s t : State} (hi : t.portI = s.portI) (hca : t.portCA = s.portCA) (hpb : t.portPB = s.portPB)
    (hcb : t.portCB = s.portCB) (p : Port) : t.port p = s.port p := by
  cases p
  · exact hi
  · exact hca
  · exact hpb
  · exact hcb

theorem State.Effect.ports_wf {s t : State} {e : Event} (he : s.Effect e t) (h : ∀ p, (s.port p).Wf) :
    ∀ p, (t.port p).Wf := by
  cases he with
  | stays => exact h
  | noted | raised | emitted =>
    intro p
    exact State.port_congr (s := s) rfl rfl rfl rfl p ▸ h p
  | moved turn x q st d =>
    refine State.setPort_ports_wf (fun p => ?_) (PortState.wf_answered st d)
    rw [State.setQueue_port]
    exact State.withTurn_port s turn p ▸ h p
  | byteTaken turn b p st d =>
    refine State.setPort_ports_wf (fun p => ?_) (PortState.wf_answered st d)
    exact State.port_congr (s := s) rfl rfl rfl rfl p ▸ h p
  | syncedR2W | syncedW2R =>
    intro p
    rw [State.setQueue_port]
    exact h p
  | presented p w => exact State.setPort_ports_wf h (PortState.wf_presented w)
  | reset =>
    intro p
    rw [State.blockReset_port]
    exact PortState.wf_idle

/-! ## The parser and the queues -/

/-- What an event does to the parser. -/
theorem State.Effect.parser_cases {s t : State} {e : Event} (he : s.Effect e t) :
    t.parser = s.parser ∨ (∃ b, s.parser.pend = false ∧ s.parser.input b = .ok t.parser) ∨
      (e = .emit ∧ t.parser = { s.parser with pend := false }) ∨ (e = .reset ∧ t.parser = Parser.reset) := by
  cases he with
  | byteTaken turn b p st d hpend hin => exact .inr (.inl ⟨b, hpend, by simpa using hin⟩)
  | emitted => exact .inr (.inr (.inl ⟨rfl, rfl⟩))
  | reset => exact .inr (.inr (.inr ⟨rfl, rfl⟩))
  | stays | noted | raised => exact .inl rfl
  | moved | syncedR2W | syncedW2R | presented => exact .inl (by simp)

/-- EMIT writes the record of the pending frame into the write slot of A and hands the slot over (R100). -/
def State.HandsOver (s t : State) : Prop :=
  s.emitEnabled = true ∧ t.parser.pend = false ∧
    ∃ bytes sts q, record s.parser.pendLen s.parser.data = .ok bytes ∧
      cbWriteBlock s.cfg.a (s.queueA.writeSlot s.cfg.a) bytes s.queueA = .ok (sts, q) ∧
      t.queueA = q.acquireWrite.releaseWrite s.cfg.a

/-- A queue has made a move; on A one that leaves the producer's side and a pending frame alone (R41, R45). -/
def State.QueueMoves (s t : State) (x : QueueId) : Prop :=
  Queue.Move (s.cfg.queue x) (s.queue x) (t.queue x) ∧
    (x = .b ∨ ((t.queue x).wHeld = (s.queue x).wHeld ∧ (s.parser.pend = true → t.parser.pend = true)))

theorem State.QueueMoves.of_same {s t : State} {x : QueueId} (hq : t.queue x = s.queue x)
    (hpend : x = .b ∨ (s.parser.pend = true → t.parser.pend = true)) : s.QueueMoves t x :=
  ⟨hq ▸ .stay, hpend.imp_right fun h => ⟨congrArg Queue.wHeld hq, h⟩⟩

/-- A move of one queue leaves the other one where it is. -/
theorem State.QueueMoves.of_setQueue {s t : State} {x y : QueueId} {q : Queue} (ht : ∀ z, t.queue z = (s.setQueue y q).queue z)
    (hparser : t.parser = s.parser) (hmove : Queue.Move (s.cfg.queue y) (s.queue y) q)
    (hside : y = .b ∨ q.wHeld = (s.queue y).wHeld) : s.QueueMoves t x := by
  have hpend : s.parser.pend = true → t.parser.pend = true := by simp [hparser]
  by_cases hxy : x = y
  · subst hxy
    have hq : t.queue x = q := (ht x).trans (State.setQueue_queue s x q)
    rw [State.QueueMoves, hq]
    exact ⟨hmove, hside.imp_right fun h => ⟨h, hpend⟩⟩
  · exact .of_same ((ht x).trans (State.setQueue_queue_other s y x q hxy)) (.inr hpend)

/-- What an event does to a queue: a move, a hand-over by EMIT, or the block reset. -/
theorem State.Effect.queue_cases {s t : State} {e : Event} (he : s.Effect e t) (x : QueueId) :
    s.QueueMoves t x ∨ (e = .emit ∧ x = .a ∧ s.HandsOver t) ∨ (e = .reset ∧ t.queue x = Queue.reset (s.cfg.queue x)) := by
  cases he with
  | stays | noted | raised => exact .inl (.of_same (by cases x <;> rfl) (.inr id))
  | moved turn y q st d hmove hside =>
    refine .inl (.of_setQueue (y := y) (q := q) (fun z => ?_) (by simp) hmove hside)
    cases y <;> cases z <;> simp [State.answer]
  | byteTaken turn b p st d hpend hin =>
    exact .inl (.of_same (by cases x <;> simp) (.inr (by simp [hpend])))
  | emitted bytes sts q hen hrec hwrite =>
    cases x with
    | a => exact .inr (.inl ⟨rfl, rfl, hen, rfl, bytes, sts, q, hrec, hwrite, rfl⟩)
    | b => exact .inl (.of_same rfl (.inl rfl))
  | syncedR2W y d =>
    exact .inl (.of_setQueue (fun _ => rfl) (by simp) (.syncR2W d) (.inr (by simp)))
  | syncedW2R y d =>
    exact .inl (.of_setQueue (fun _ => rfl) (by simp) (.syncW2R d) (.inr (by simp)))
  | presented => exact .inl (.of_same (by simp) (.inr (by simp)))
  | reset => exact .inr (.inr ⟨rfl, by cases x <;> rfl⟩)

/-! ## The reset state -/

theorem Parser.reset_wf : Parser.reset.Wf where
  plen_range := .inl rfl
  idx_range := Nat.zero_le _
  collecting h := by cases h
  collected h := by cases h
  pending_state h := by cases h
  pending_length h := by cases h
  pending_data h := by cases h
  data_wf := List.Pairwise.nil
  data_range _ h := absurd h List.not_mem_nil

theorem Queue.reset_storageWf {g : QueueParams} (hg : g.InRange) : (Queue.reset g).StorageWf g where
  slots_length := Queue.reset_slots_length g
  slots_wf j _ := Queue.reset_slot g j ▸ Slot.empty_wf hg.one_le_cap
  written j _ := by
    rw [Queue.slotBytes_of_empty (Queue.reset_slot g j)]
    exact fun v hv => absurd hv List.not_mem_nil
  ram_wf := List.Pairwise.nil
  ram_range _ hc := absurd hc List.not_mem_nil

theorem Queue.reset_arbiterWf {g : QueueParams} (hg : g.InRange) : (Queue.reset g).ArbiterWf g := by
  have hn := hg.one_le_n
  have hn' := hg.n_le
  cases hkind : g.arbiter with
  | semaphore =>
    have hfree : (BitVec.ofNat 9 g.n).toNat = g.n := Nat.mod_eq_of_lt (by omega)
    have harb : (Queue.reset g).arbiter = _ := Arbiter.reset_semaphore hkind
    refine (Queue.arbiterWf_semaphore harb).2 ⟨hkind, hn, hn, ?_, (Nat.zero_mod _).symm⟩
    rw [hfree]
    rfl
  | grayCdc =>
    have harb : (Queue.reset g).arbiter = _ := Arbiter.reset_grayCdc hkind
    have hpos : 0 < 2 * g.n := by omega
    refine (Queue.arbiterWf_grayCdc harb).2 ⟨hkind, ⟨hpos, hpos, hpos, hpos⟩, ?_, Nat.zero_le _⟩
    rw [pointerDistance_self _ hn]
    exact Nat.zero_le _

theorem Queue.reset_wf {g : QueueParams} (hg : g.InRange) : (Queue.reset g).Wf g :=
  Queue.wf_iff.2 ⟨Queue.reset_storageWf hg, Queue.reset_arbiterWf hg, fun _ _ _ => Queue.reset_slot g _⟩

theorem State.resetWith_inv (c : Config) : (State.resetWith c).Inv where
  fault_wf := .inl ⟨rfl, rfl⟩
  parser_wf := Parser.reset_wf
  queueA_wf := Queue.reset_wf (Config.queue_inRange c .a)
  queueA_not_held := rfl
  queueB_wf := Queue.reset_wf (Config.queue_inRange c .b)
  ports_wf p := State.resetWith_port c p ▸ PortState.wf_idle

/-- Settles O45: the reset state of a configuration is good, and `State.reset` is that of the default configuration. -/
theorem resetStateIsGood : Obligations.ResetStateIsGood :=
  ⟨State.resetWith_inv, State.resetWith_inv defaultConfig⟩

/-! ## The whole block -/

theorem State.Effect.parser_wf {s t : State} {e : Event} (he : s.Effect e t) (h : s.parser.Wf) : t.parser.Wf := by
  obtain hsame | ⟨b, hpend, hin⟩ | ⟨-, hclear⟩ | ⟨-, hreset⟩ := he.parser_cases
  · exact hsame ▸ h
  · exact h.input hpend hin
  · exact hclear ▸ h.cleared
  · exact hreset ▸ Parser.reset_wf

theorem State.Effect.queue_wf {s t : State} {e : Event} (he : s.Effect e t) (h : s.Inv) (x : QueueId) :
    (t.queue x).Wf (t.cfg.queue x) := by
  rw [he.cfg_eq]
  have hg := Config.queue_inRange s.cfg x
  obtain ⟨hmove, -⟩ | ⟨-, rfl, hen, -, bytes, sts, q, -, hwrite, hq⟩ | ⟨-, hreset⟩ := he.queue_cases x
  · exact hmove.wf (h.queue_wf x) hg
  · obtain ⟨-, -, hfree⟩ := s.emitEnabled_iff.1 hen
    rw [State.queue_a, hq]
    exact h.queueA_wf.handOver hg h.queueA_not_held hfree hwrite
  · exact hreset ▸ Queue.reset_wf hg

/-- No event lets the producer hold a slot of A (R100). -/
theorem State.Effect.queueA_not_held {s t : State} {e : Event} (he : s.Effect e t) (h : s.queueA.wHeld = false) :
    t.queueA.wHeld = false := by
  obtain ⟨-, hb | ⟨hsame, -⟩⟩ | ⟨-, -, -, -, _, _, q, -, -, hq⟩ | ⟨-, hreset⟩ := he.queue_cases .a
  · cases hb
  · exact hsame.trans h
  · rw [hq, Queue.releaseWrite_wHeld]
  · exact congrArg Queue.wHeld hreset

theorem State.Effect.inv {s t : State} {e : Event} (he : s.Effect e t) (h : s.Inv) : t.Inv where
  fault_wf := he.fault_wf h.fault_wf
  parser_wf := he.parser_wf h.parser_wf
  queueA_wf := he.queue_wf h .a
  queueA_not_held := he.queueA_not_held h.queueA_not_held
  queueB_wf := he.queue_wf h .b
  ports_wf := he.ports_wf h.ports_wf

theorem runEvent_inv {e : Event} {s t : State} (h : s.Inv) (hnext : runEvent e s = .next t) : t.Inv :=
  (runEvent_effect hnext).inv h

/-- Two blocks that differ in the model's own fields alone are both good (log 2, log 8). -/
theorem State.Inv.congr {s t : State} (h : s.Inv) (hcfg : t.cfg = s.cfg) (hfault : t.fault = s.fault)
    (hfcmd : t.fcmd = s.fcmd) (hparser : t.parser = s.parser) (ha : t.queueA = s.queueA) (hb : t.queueB = s.queueB)
    (hports : ∀ p, t.port p = s.port p) : t.Inv where
  fault_wf := h.fault_wf.congr hfault hfcmd
  parser_wf := hparser ▸ h.parser_wf
  queueA_wf := hcfg ▸ ha ▸ h.queueA_wf
  queueA_not_held := ha ▸ h.queueA_not_held
  queueB_wf := hcfg ▸ hb ▸ h.queueB_wf
  ports_wf p := hports p ▸ h.ports_wf p

theorem State.Inv.advance {s : State} (h : s.Inv) : s.advance.Inv :=
  h.congr (by simp) (by simp) (by simp) (by simp) (by simp) (by simp) (by simp)

theorem State.Inv.withTurn {s : State} (h : s.Inv) (turn : Turn) : ({ s with turn := turn } : State).Inv :=
  h.congr rfl rfl rfl rfl rfl rfl (s.withTurn_port turn)

/-- Settles O46: taking the event does not touch the invariant, and every effect of an event keeps it. -/
theorem everyStepKeepsTheInvariant : Obligations.EveryStepKeepsTheInvariant :=
  fun _ _ hs hstep => runEvent_inv hs.advance hstep

/-! ## No stop of the model -/

theorem cbAddByte_of_wf {g : QueueParams} {q : Queue} {j : Nat} (b : Byte) (hj : j < g.n) (hwf : (q.slot j).Wf g.cap) :
    ∃ r, cbAddByte g j b q = .ok r := by
  obtain hfull | hlt := hwf.1.eq_or_lt
  · exact ⟨_, cbAddByte_of_full b hfull⟩
  · exact ⟨_, cbAddByte_of_lt b hj hwf hlt⟩

/-- The oldest byte of a slot that counts one has a value (R30). -/
theorem Queue.StorageWf.oldest_byte {g : QueueParams} {q : Queue} {j : Nat} (h : q.StorageWf g) (hj : j < g.n)
    (hpos : (q.slot j).cnt.toNat ≠ 0) : ∃ b, q.ram.read (q.byteAddr g j 0) = some b :=
  Option.isSome_iff_exists.1 (Queue.slotBytes_written_iff.1 (h.written j hj) 0 (Nat.pos_of_ne_zero hpos))

theorem Queue.StorageWf.removeByte_ok {g : QueueParams} {q : Queue} {j : Nat} (h : q.StorageWf g) (hj : j < g.n) :
    ∃ r, cbRemoveByte g j q = .ok r := by
  by_cases hempty : (q.slot j).cnt.toNat = 0
  · exact ⟨_, cbRemoveByte_of_empty hempty⟩
  · obtain ⟨b, hb⟩ := h.oldest_byte hj hempty
    exact ⟨_, cbRemoveByte_of_pos hj (h.slots_wf j hj) hempty hb⟩

theorem Queue.StorageWf.peekByte_ok {g : QueueParams} {q : Queue} {j : Nat} (h : q.StorageWf g) (hj : j < g.n) :
    ∃ r, cbPeekByte g j q = .ok r := by
  by_cases hempty : (q.slot j).cnt.toNat = 0
  · exact ⟨_, cbPeekByte_of_empty hempty⟩
  · obtain ⟨b, hb⟩ := h.oldest_byte hj hempty
    have hwf := h.slots_wf j hj
    have haddr := hwf.slotAddr_rd (g := g)
    obtain ⟨-, hrd, -, -⟩ := hwf
    exact ⟨_, cbPeekByte_reads hempty (slotAddr_lt_ramSize hj hrd) (haddr ▸ hb)⟩

theorem writeRule_ne_stop {s : State} {op : QueueParams → Nat → Queue → Except Fault Reply} (f : Fault)
    (hop : ∃ r, op s.cfg.b (s.queueB.writeSlot s.cfg.b) s.queueB = .ok r) : writeRule s op ≠ .stop f := by
  obtain ⟨r, hr⟩ := hop
  unfold writeRule
  rw [hr]
  split <;> exact nofun

theorem readRule_ne_stop {x : QueueId} {s : State} {op : QueueParams → Nat → Queue → Except Fault Reply} (f : Fault)
    (hop : ∃ r, op (s.cfg.queue x) ((s.queue x).readSlot (s.cfg.queue x)) (s.queue x) = .ok r) :
    readRule x s op ≠ .stop f := by
  obtain ⟨r, hr⟩ := hop
  unfold readRule
  rw [hr]
  split <;> exact nofun

theorem acquireWriteSlot_ne_stop {s : State} {unavailable : Action} {f : Fault} (h : unavailable ≠ .stop f) :
    acquireWriteSlot s unavailable ≠ .stop f := by
  unfold acquireWriteSlot
  split
  · exact nofun
  · split
    · exact nofun
    · exact h

/-- In a good state no command's rule stops the model: row by row of R50. -/
theorem commandRule_ne_stop {s : State} (h : s.Inv) (i : Instr) (f : Fault) : commandRule i s ≠ .stop f := by
  have hB := h.queueB_wf
  have hgB := Config.queue_inRange s.cfg .b
  have hX := h.queue_wf s.consumed
  have hgX := Config.queue_inRange s.cfg s.consumed
  cases i with
  | acqw => exact acquireWriteSlot_ne_stop nofun
  | acqwt =>
    refine acquireWriteSlot_ne_stop ?_
    split <;> exact nofun
  | relw | relr =>
    simp only [commandRule]
    split <;> exact nofun
  | addb b =>
    simp only [commandRule]
    exact writeRule_ne_stop f (cbAddByte_of_wf b (hB.writeSlot_lt hgB) (hB.slots_wf _ (hB.writeSlot_lt hgB)))
  | wfull | wempty =>
    simp only [commandRule]
    exact writeRule_ne_stop f ⟨_, rfl⟩
  | acqr =>
    simp only [commandRule]
    split
    · exact nofun
    · split <;> exact nofun
  | remb => exact readRule_ne_stop f (hX.storage.removeByte_ok (hX.readSlot_lt hgX))
  | peek => exact readRule_ne_stop f (hX.storage.peekByte_ok (hX.readSlot_lt hgX))
  | rfull | rempty =>
    simp only [commandRule]
    exact readRule_ne_stop f ⟨_, rfl⟩
  | pbyte b =>
    obtain ⟨p, hp⟩ := h.parser_wf.input_ok b
    simp only [commandRule, hp]
    split <;> exact nofun

theorem dispatch_ne_fault {s : State} (h : s.Inv) (f : Fault) : dispatch s ≠ .fault f := by
  rcases dispatch_cases s with ⟨-, hd⟩ | ⟨w, i, -, -, hd⟩ | ⟨w, -, -, -, hd⟩ <;> rw [hd]
  · exact nofun
  · rw [exec_eq_command]
    exact fun hfault => commandRule_ne_stop h i f (command_fault i s _ f hfault)
  · unfold illegalStep
    split <;> exact nofun

/-- The record of the pending frame can be read and fits the empty write slot of A (R5, R22, R100). -/
theorem emitStep_ne_fault {s : State} (h : s.Inv) (f : Fault) : emitStep s ≠ .fault f := by
  cases hen : s.emitEnabled with
  | false =>
    rw [emitStep_of_disabled hen]
    exact nofun
  | true =>
    have hg := Config.queue_inRange s.cfg .a
    have hA := h.queueA_wf
    have hj := hA.writeSlot_lt hg
    obtain ⟨-, hpend, -⟩ := s.emitEnabled_iff.1 hen
    obtain ⟨bytes, hrec, -⟩ := h.parser_wf.record_ok hpend
    have hwf := hA.slots_wf _ hj
    obtain ⟨q, hwrite, -⟩ := cbWriteBlock_appends hg.cap_le hj bytes (hj.trans_eq hA.slots_length.symm) hwf
      (Nat.add_sub_of_le hwf.1)
    rw [emitStep_of_enabled hen hrec hwrite]
    exact nofun

theorem runEvent_ne_fault {s : State} (h : s.Inv) (e : Event) (f : Fault) : runEvent e s ≠ .fault f := by
  cases e with
  | turn p timeout => exact dispatch_ne_fault (h.withTurn _) f
  | emit => exact emitStep_ne_fault h f
  | syncR2W x d | syncW2R x d | reset => exact nofun
  | present p w =>
    simp only [runEvent, presentCommand]
    split <;> exact nofun

/-- Settles O47, event by event: a command's rule and EMIT are all that reads or writes storage. -/
theorem noStepReadsAnUnwrittenByte : Obligations.NoStepReadsAnUnwrittenByte :=
  fun _ f hs => runEvent_ne_fault hs.advance _ f

end Sys2Proof.Machine
end

section
/-! The backpressure bound (R81): the slots of a queue that are filled or held for writing grow by one for each acquire that
completes and shrink by one for each RELR. -/

namespace Sys2Proof.Machine

/-! ## The load of a queue -/

/-- The slots filled or held for writing. -/
def Queue.load (g : QueueParams) (q : Queue) : Nat := q.filled g + q.wHeld.toNat

theorem Queue.Wf.load_le {g : QueueParams} {q : Queue} (h : q.Wf g) (hg : g.InRange) : q.load g ≤ g.n :=
  h.arbiter_wf.filled_add_wHeld_le hg.one_le_n

theorem Queue.load_congr {g : QueueParams} {q q' : Queue} (harb : q'.arbiter = q.arbiter) (hw : q'.wHeld = q.wHeld)
    (hr : q'.rHeld = q.rHeld) : q'.load g = q.load g := by
  simp only [Queue.load, Queue.filled, harb, hw, hr]

/-- Appending a byte leaves the arbiter and the held bits alone (R62). -/
theorem cbAddByte_control {g : QueueParams} {j : Nat} {b : Byte} {q : Queue} {r : Reply} (h : cbAddByte g j b q = .ok r) :
    r.q.arbiter = q.arbiter ∧ r.q.wHeld = q.wHeld ∧ r.q.rHeld = q.rHeld := by
  obtain ⟨-, rfl⟩ | ⟨-, -, rfl⟩ := cbAddByte_ok g j b q r h
  · exact ⟨rfl, rfl, rfl⟩
  · exact ⟨rfl, rfl, rfl⟩

/-- Removing a byte leaves the arbiter and the held bits alone (R63). -/
theorem cbRemoveByte_control {g : QueueParams} {j : Nat} {q : Queue} {r : Reply} (h : cbRemoveByte g j q = .ok r) :
    r.q.arbiter = q.arbiter ∧ r.q.wHeld = q.wHeld ∧ r.q.rHeld = q.rHeld := by
  obtain ⟨-, rfl⟩ | ⟨-, -, v, -, rfl⟩ := cbRemoveByte_ok g j q r h
  · exact ⟨rfl, rfl, rfl⟩
  · exact ⟨rfl, rfl, rfl⟩

/-- A recycled and freed read slot is one filled slot less (R76, R85). -/
theorem Queue.Wf.releaseRead_filled {g : QueueParams} {q : Queue} (h : q.Wf g) (hg : g.InRange) (hheld : q.rHeld = true) :
    (q.releaseRead g).filled g + 1 = q.filled g :=
  Queue.ArbiterWf.freeReadSlot_filled (q := cbReset g (q.readSlot g) q) h.arbiter_wf hg hheld

/-- Move by move: the load rises only with an acquire for writing, and falls only with a release after reading. -/
theorem Queue.Move.load_add_le {g : QueueParams} {q q' : Queue} (hmove : Queue.Move g q q') (h : q.Wf g) (hg : g.InRange) :
    q.load g + (!q.wHeld && q'.wHeld).toNat ≤ q'.load g + (q.rHeld && !q'.rHeld).toNat := by
  cases hmove with
  | stay => simp
  | acquireWrite hheld _ => simp [Queue.load, hheld]
  | releaseWrite hheld => simp [Queue.load, hheld, h.arbiter_wf.releaseWrite_filled hg hheld]
  | addByte b r _ hr =>
    obtain ⟨harb, hw, hr⟩ := cbAddByte_control hr
    simp [Queue.load_congr harb hw hr, hw]
  | acquireRead hheld hsome => simp [Queue.load, Queue.acquireRead_filled hheld hsome]
  | releaseRead hheld =>
    have hfilled := h.releaseRead_filled hg hheld
    simp only [Queue.load, Queue.releaseRead_wHeld, Queue.releaseRead_rHeld, hheld, Bool.not_and_self, Bool.toNat_false,
      Bool.not_false, Bool.and_true, Bool.toNat_true]
    omega
  | removeByte r _ hr =>
    obtain ⟨harb, hw, hr⟩ := cbRemoveByte_control hr
    simp [Queue.load_congr harb hw hr, hw]
  | syncR2W d => simp [Queue.load]
  | syncW2R d => simp [Queue.load]

/-! ## The bound -/

theorem releaseCompletes_of_next {x : QueueId} {e : Event} {s t : State} (h : runEvent e s = .next t) :
    releaseCompletes x e s = ((s.queue x).rHeld && !(t.queue x).rHeld) := by
  simp [releaseCompletes, h]

theorem acquireCompletes_a_of_next {e : Event} {s t : State} (h : runEvent e s = .next t) :
    acquireCompletes .a e s = (decide (e = .emit) && s.parser.pend && !t.parser.pend) := by
  simp [acquireCompletes, h]

theorem acquireCompletes_b_of_next {e : Event} {s t : State} (h : runEvent e s = .next t) :
    acquireCompletes .b e s = (!s.queueB.wHeld && t.queueB.wHeld) := by
  simp [acquireCompletes, h]

/-- An acquire that completes is one the queue's move shows, or the one of EMIT. -/
theorem acquireCompletes_le_of_moves {e : Event} {s t : State} {x : QueueId} (hnext : runEvent e s = .next t)
    (hmoves : s.QueueMoves t x) :
    (acquireCompletes x e s).toNat ≤ (!(s.queue x).wHeld && (t.queue x).wHeld).toNat := by
  cases x with
  | a =>
    obtain ⟨-, hb | ⟨-, hpend⟩⟩ := hmoves
    · cases hb
    · have hnone : (s.parser.pend && !t.parser.pend) = false := by
        cases hs : s.parser.pend with
        | false => rfl
        | true => simp [hpend hs]
      rw [acquireCompletes_a_of_next hnext, Bool.and_assoc, hnone, Bool.and_false]
      exact Nat.zero_le _
  | b => rw [acquireCompletes_b_of_next hnext]; exact le_rfl

/-- One event of a run: the load and the acquires on one side, the load after it and the releases on the other. -/
theorem runEvent_load {e : Event} {s t : State} (h : s.Inv) (hnext : runEvent e s = .next t) (he : e ≠ .reset)
    (x : QueueId) :
    (s.queue x).load (s.cfg.queue x) + (acquireCompletes x e s).toNat ≤
      (t.queue x).load (s.cfg.queue x) + (releaseCompletes x e s).toNat := by
  have hg := Config.queue_inRange s.cfg x
  obtain hmoves | ⟨-, rfl, hen, -, bytes, sts, q, -, hwrite, hq⟩ | ⟨hreset, -⟩ := (runEvent_effect hnext).queue_cases x
  · have hacq := acquireCompletes_le_of_moves hnext hmoves
    have hload := hmoves.1.load_add_le (h.queue_wf x) hg
    rw [releaseCompletes_of_next hnext]
    omega
  · obtain ⟨-, -, hfree⟩ := s.emitEnabled_iff.1 hen
    have hfilled := h.queueA_wf.handOver_filled hg h.queueA_not_held hfree hwrite
    have hone := Bool.toNat_le (acquireCompletes .a e s)
    rw [State.queue_a, State.queue_a, hq, Queue.load, Queue.load, Config.queue_a, hfilled, h.queueA_not_held]
    simp only [Bool.toNat_false]
    omega
  · exact absurd hreset he

/-- The bound along a run without a block reset, event by event. -/
theorem countEvents_acquires_le (x : QueueId) (es : List Event) {s : State} (h : s.Inv) (hes : ∀ e ∈ es, e ≠ .reset) :
    (s.queue x).load (s.cfg.queue x) + countEvents (acquireCompletes x) es s ≤
      (s.cfg.queue x).n + countEvents (releaseCompletes x) es s := by
  induction es generalizing s with
  | nil => exact (h.queue_wf x).load_le (Config.queue_inRange s.cfg x)
  | cons e rest ih =>
    obtain ⟨he, hrest⟩ := List.forall_mem_cons.1 hes
    have hle := (h.queue_wf x).load_le (Config.queue_inRange s.cfg x)
    simp only [countEvents]
    cases hnext : runEvent e s with
    | next t =>
      have hone := runEvent_load h hnext he x
      have hmany := ih (runEvent_inv h hnext) hrest
      rw [(runEvent_effect hnext).cfg_eq] at hmany
      dsimp only
      omega
    | fault f => exact absurd hnext (runEvent_ne_fault h e f)
    | refused r =>
      have hnone : acquireCompletes x e s = false := by simp [acquireCompletes, hnext]
      rw [hnone, Bool.toNat_false]
      dsimp only
      omega

/-- ACQW with no slot available holds, under either arbiter (R68, R84). -/
theorem exec_acqw_of_unavailable {s : State} (hrun : s.halted = false) (hport : s.turn.port = .pb)
    (hheld : s.queueB.wHeld = false) (hfree : s.queueB.canAcquireWrite s.cfg.b = false) :
    exec .acqw s = .next s := by
  have hlegal : legalOn s.cfg.timedAcquire .pb .acqw = true := legalOn_of_absent _ rfl
  rw [exec_acqw, acquireWriteSlot_of_unavailable _ hheld hfree, command_pb hrun hport hlegal, conclude_hold]

/-- Settles O49: the load stays within N (`Queue.Wf.load_le`) while every acquire and every release counts in it. -/
theorem backpressureBound : Obligations.BackpressureBound := by
  refine ⟨fun s x es hs hes => countEvents_acquires_le x es hs hes, fun s hs hrun hport hheld hfull => ?_⟩
  refine exec_acqw_of_unavailable hrun hport hheld (Bool.eq_false_iff.2 fun hfree => ?_)
  have hlt := hs.queueB_wf.arbiter_wf.filled_lt (Config.queue_inRange s.cfg .b).one_le_n hfree
  omega

end Sys2Proof.Machine
end

section
/-! The two synchronisers of a GRAY_CDC queue (R86): what their steps do to the copies, that no other event moves a copy
away from its pointer, and that under weak fairness a copy reaches a pointer that stands still (R44). -/

namespace Sys2Proof.Machine

/-! ## The two directions -/

/-- The two synchronisers (R36 (c)): SyncR2W copies `rPtr` to the producer, SyncW2R copies `wPtr` to the consumer. -/
inductive Sync where
  | r2w
  | w2r

/-- The pointer a synchroniser copies. -/
def Sync.source (c : Sync) (p : GrayPointers) : Count :=
  match c with
  | .r2w => p.rPtr
  | .w2r => p.wPtr

/-- The copy a synchroniser moves. -/
def Sync.copy (c : Sync) (p : GrayPointers) : Count :=
  match c with
  | .r2w => p.rPtrSyncW
  | .w2r => p.wPtrSyncR

/-- The pointers after a step of a synchroniser with draw `d`; `Sync.runEvent_eq` ties it to the model. -/
def Sync.moved (c : Sync) (g : QueueParams) (p : GrayPointers) (d : Nat) : GrayPointers :=
  match c with
  | .r2w => { p with rPtrSyncW := syncPointer g p.rPtr p.rPtrSyncW d }
  | .w2r => { p with wPtrSyncR := syncPointer g p.wPtr p.wPtrSyncR d }

/-- The event of a synchroniser. -/
def Sync.event (c : Sync) (x : QueueId) (d : Nat) : Event :=
  match c with
  | .r2w => .syncR2W x d
  | .w2r => .syncW2R x d

/-- The agent of a synchroniser. -/
def Sync.agent (c : Sync) (x : QueueId) : Agent :=
  match c with
  | .r2w => .syncR2W x
  | .w2r => .syncW2R x

/-- How far the copy is behind (R82). -/
def Sync.lag (c : Sync) (g : QueueParams) (p : GrayPointers) : Nat := pointerDistance g (c.source p) (c.copy p)

theorem Sync.copy_moved (c : Sync) (g : QueueParams) (p : GrayPointers) (d : Nat) :
    c.copy (c.moved g p d) = syncPointer g (c.source p) (c.copy p) d := by
  cases c <;> rfl

theorem Sync.source_moved (c : Sync) (g : QueueParams) (p : GrayPointers) (d : Nat) :
    c.source (c.moved g p d) = c.source p := by
  cases c <;> rfl

/-- With a draw out of range nothing moves (R86, log 18). -/
theorem Sync.moved_of_out_of_range {c : Sync} {g : QueueParams} {p : GrayPointers} {d : Nat}
    (h : ¬ (1 ≤ d ∧ d ≤ c.lag g p)) : c.moved g p d = p := by
  cases c with
  | r2w => exact congrArg (fun v => { p with rPtrSyncW := v }) (if_neg h)
  | w2r => exact congrArg (fun v => { p with wPtrSyncR := v }) (if_neg h)

theorem Sync.agentOf_eq {c : Sync} {x : QueueId} {e : Event} (h : agentOf e = some (c.agent x)) :
    ∃ d, e = c.event x d := by
  cases c <;> cases e <;> simp_all [agentOf, Sync.agent, Sync.event]

theorem Sync.agentOf_event (c : Sync) (x : QueueId) (d : Nat) : agentOf (c.event x d) = some (c.agent x) := by
  cases c <;> rfl

/-- A step of a synchroniser moves its copy and nothing else (R86). -/
theorem Sync.runEvent_eq (c : Sync) {s : State} {x : QueueId} {p : GrayPointers} (hrun : s.halted = false)
    (harb : (s.queue x).arbiter = .grayCdc p) (d : Nat) :
    runEvent (c.event x d) s =
      .next (s.setQueue x { s.queue x with arbiter := .grayCdc (c.moved (s.cfg.queue x) p d) }) := by
  cases c with
  | r2w =>
    have hq := Queue.syncR2W_grayCdc harb (s.cfg.queue x) d
    simp only [Sync.event, runEvent, syncR2WStep, hrun, hq]
    rfl
  | w2r =>
    have hq := Queue.syncW2R_grayCdc harb (s.cfg.queue x) d
    simp only [Sync.event, runEvent, syncW2RStep, hrun, hq]
    rfl

/-- With a draw out of range the state stays (R86, log 18). -/
theorem Sync.runEvent_of_out_of_range {c : Sync} {s : State} {x : QueueId} {p : GrayPointers} {d : Nat}
    (hrun : s.halted = false) (harb : (s.queue x).arbiter = .grayCdc p) (h : ¬ (1 ≤ d ∧ d ≤ c.lag (s.cfg.queue x) p)) :
    runEvent (c.event x d) s = .next s := by
  rw [c.runEvent_eq hrun harb, Sync.moved_of_out_of_range h, ← harb, State.setQueue_self]

/-- Settles O30: the draws from 1 to the distance, an integer mod 2N, are those that move the copy. -/
theorem syncMovesACopyForward : Obligations.SyncMovesACopyForward := by
  intro s x g d hrun harb m r2w w2r
  have hn := (Config.queue_inRange s.cfg x).one_le_n
  have hr2w : (Sync.lag .r2w (s.cfg.queue x) g : Int) = r2w := pointerDistance_int _ _ _ hn
  have hw2r : (Sync.lag .w2r (s.cfg.queue x) g : Int) = w2r := pointerDistance_int _ _ _ hn
  rw [← hr2w, ← hw2r, Nat.cast_le, Nat.cast_le]
  refine ⟨fun hd => ?_, fun hd => ?_, fun hd => ?_, fun hd => ?_⟩
  · have hmoved : syncPointer (s.cfg.queue x) g.rPtr g.rPtrSyncW d = pointerAdvance (s.cfg.queue x) g.rPtrSyncW d :=
      if_pos hd
    exact (Sync.runEvent_eq .r2w hrun harb d).trans (by rw [Sync.moved, hmoved, pointerAdvance])
  · exact Sync.runEvent_of_out_of_range (c := .r2w) hrun harb hd
  · have hmoved : syncPointer (s.cfg.queue x) g.wPtr g.wPtrSyncR d = pointerAdvance (s.cfg.queue x) g.wPtrSyncR d :=
      if_pos hd
    exact (Sync.runEvent_eq .w2r hrun harb d).trans (by rw [Sync.moved, hmoved, pointerAdvance])
  · exact Sync.runEvent_of_out_of_range (c := .w2r) hrun harb hd

/-! ## How far a copy is behind -/

/-- A copy that is not behind is the pointer itself (R25, R82). -/
theorem eq_of_pointerDistance_eq_zero {g : QueueParams} {p q : Count} (hn : 1 ≤ g.n) (hp : p.toNat < 2 * g.n)
    (hq : q.toNat < 2 * g.n) (h : pointerDistance g p q = 0) : q = p := by
  have hmod := add_pointerDistance_modEq g p q hn
  rw [h, Nat.add_zero] at hmod
  exact BitVec.eq_of_toNat_eq (hmod.eq_of_lt_of_lt hq hp)

theorem syncPointer_distance_le {g : QueueParams} (hg : g.InRange) (source copy : Count) (d : Nat) :
    pointerDistance g source (syncPointer g source copy d) ≤ pointerDistance g source copy := by
  obtain ⟨-, hd, hmoved⟩ | ⟨-, hstays⟩ := syncPointer_cases g source copy d
  · rw [hmoved, pointerDistance_advance_right hg hd]
    exact Nat.sub_le _ _
  · rw [hstays]

theorem Sync.lag_moved_lt {c : Sync} {g : QueueParams} {p : GrayPointers} {d : Nat} (hg : g.InRange)
    (h : 1 ≤ d ∧ d ≤ c.lag g p) : c.lag g (c.moved g p d) < c.lag g p := by
  obtain ⟨hpos, hd⟩ := h
  rw [Sync.lag, Sync.copy_moved, Sync.source_moved, syncPointer, if_pos ⟨hpos, hd⟩, pointerDistance_advance_right hg hd]
  simp only [Sync.lag] at hd ⊢
  omega

/-- `p'` has no copy that a synchroniser could not have moved to from `p`. -/
def Sync.Follows (g : QueueParams) (p p' : GrayPointers) : Prop :=
  ∀ c : Sync, ∃ d, c.copy p' = syncPointer g (c.source p) (c.copy p) d

theorem Sync.follows_of_same_copies {g : QueueParams} {p p' : GrayPointers} (h : ∀ c : Sync, c.copy p' = c.copy p) :
    Sync.Follows g p p' :=
  fun c => ⟨0, (h c).trans (if_neg (by omega)).symm⟩

theorem Sync.Follows.refl (g : QueueParams) (p : GrayPointers) : Sync.Follows g p p :=
  Sync.follows_of_same_copies fun _ => rfl

theorem Sync.follows_moved (c : Sync) (g : QueueParams) (p : GrayPointers) (d : Nat) : Sync.Follows g p (c.moved g p d) := by
  intro c'
  cases c <;> cases c'
  · exact ⟨d, rfl⟩
  · exact ⟨0, (if_neg (by omega)).symm⟩
  · exact ⟨0, (if_neg (by omega)).symm⟩
  · exact ⟨d, rfl⟩

/-- Move by move: only a synchroniser writes a copy (R84 to R86). -/
theorem Queue.Move.follows {g : QueueParams} {q q' : Queue} {p p' : GrayPointers} (hmove : Queue.Move g q q')
    (hp : q.arbiter = .grayCdc p) (hp' : q'.arbiter = .grayCdc p') : Sync.Follows g p p' := by
  have of_arbiter {p'' : GrayPointers} (harb : q'.arbiter = .grayCdc p'') (h : Sync.Follows g p p'') :
      Sync.Follows g p p' := by
    cases harb.symm.trans hp'
    exact h
  cases hmove with
  | stay => exact of_arbiter hp (.refl g p)
  | acquireWrite => exact of_arbiter (by rw [Queue.acquireWrite_grayCdc hp]) (.refl g p)
  | acquireRead => exact of_arbiter (by rw [Queue.acquireRead_grayCdc hp]) (.refl g p)
  | addByte b r _ hr =>
    obtain ⟨harb, -, -⟩ := cbAddByte_control hr
    exact of_arbiter (harb.trans hp) (.refl g p)
  | removeByte r _ hr =>
    obtain ⟨harb, -, -⟩ := cbRemoveByte_control hr
    exact of_arbiter (harb.trans hp) (.refl g p)
  | releaseWrite =>
    refine of_arbiter (by rw [Queue.releaseWrite_grayCdc hp]) (Sync.follows_of_same_copies fun c => ?_)
    cases c <;> rfl
  | releaseRead =>
    refine of_arbiter (congrArg Queue.arbiter (Queue.freeReadSlot_grayCdc (q := cbReset g _ q) hp g))
      (Sync.follows_of_same_copies fun c => ?_)
    cases c <;> rfl
  | syncR2W d => exact of_arbiter (congrArg Queue.arbiter (Queue.syncR2W_grayCdc hp g d)) (Sync.follows_moved .r2w g p d)
  | syncW2R d => exact of_arbiter (congrArg Queue.arbiter (Queue.syncW2R_grayCdc hp g d)) (Sync.follows_moved .w2r g p d)

theorem Sync.lag_of_reset {c : Sync} {g : QueueParams} {p : GrayPointers} (hn : 1 ≤ g.n)
    (h : Arbiter.reset g = .grayCdc p) : c.lag g p = 0 := by
  cases hkind : g.arbiter with
  | semaphore => cases (Arbiter.reset_semaphore hkind).symm.trans h
  | grayCdc =>
    cases (Arbiter.reset_grayCdc hkind).symm.trans h
    cases c <;> exact pointerDistance_self 0 hn

/-- Legal pointers and copies are in range (R25). -/
theorem Sync.lt_of_wf (c : Sync) {g : QueueParams} {p : GrayPointers} {w r : Bool} (h : p.Wf g w r) :
    (c.source p).toNat < 2 * g.n ∧ (c.copy p).toNat < 2 * g.n := by
  obtain ⟨⟨hw, hr, hrs, hws⟩, -⟩ := h
  cases c
  · exact ⟨hr, hrs⟩
  · exact ⟨hw, hws⟩

/-- As long as its pointer stands still, no event lets a copy fall behind. -/
theorem Sync.lag_le_of_effect {c : Sync} {s t : State} {e : Event} {x : QueueId} {p p' : GrayPointers} (h : s.Inv)
    (he : s.Effect e t) (hp : (s.queue x).arbiter = .grayCdc p) (hp' : (t.queue x).arbiter = .grayCdc p')
    (hstill : c.source p' = c.source p) : c.lag (s.cfg.queue x) p' ≤ c.lag (s.cfg.queue x) p := by
  have hg := Config.queue_inRange s.cfg x
  have of_follows (hfollows : Sync.Follows (s.cfg.queue x) p p') :
      c.lag (s.cfg.queue x) p' ≤ c.lag (s.cfg.queue x) p := by
    obtain ⟨d, hd⟩ := hfollows c
    rw [Sync.lag, hd, hstill]
    exact syncPointer_distance_le hg _ _ d
  obtain ⟨hmove, -⟩ | ⟨-, rfl, hen, -, bytes, sts, q, -, hwrite, hq⟩ | ⟨-, hreset⟩ := he.queue_cases x
  · exact of_follows (hmove.follows hp hp')
  · have hA := h.queueA_wf
    have hj := hA.writeSlot_lt hg
    have happ := cbWriteBlock_appended hg hj (hj.trans_eq hA.slots_length.symm) (hA.slots_wf _ hj) hwrite
    rw [State.queue_a, hq, Queue.handOver_grayCdc _ (happ.arbiter.trans hp)] at hp'
    cases hp'
    exact of_follows (Sync.follows_of_same_copies fun c => by cases c <;> rfl)
  · rw [hreset, Queue.reset_arbiter] at hp'
    rw [Sync.lag_of_reset hg.one_le_n hp']
    exact Nat.zero_le _

/-! ## Weak fairness -/

/-- How far the copy of a queue is behind; a queue with semaphores has no copies. -/
def Sync.queueLag (c : Sync) (g : QueueParams) (q : Queue) : Nat :=
  match q.arbiter with
  | .semaphore _ => 0
  | .grayCdc p => c.lag g p

theorem Sync.queueLag_grayCdc {c : Sync} {g : QueueParams} {q : Queue} {p : GrayPointers} (h : q.arbiter = .grayCdc p) :
    c.queueLag g q = c.lag g p := by
  simp [Sync.queueLag, h]

/-- A synchroniser's event is a step exactly with a draw in range (R86, log 18). -/
theorem Sync.stepEnabled_iff {c : Sync} {s : State} {x : QueueId} {p : GrayPointers} (hrun : s.halted = false)
    (harb : (s.queue x).arbiter = .grayCdc p) (d : Nat) :
    StepEnabled (c.event x d) s ↔ 1 ≤ d ∧ d ≤ c.lag (s.cfg.queue x) p := by
  constructor
  · intro hstep
    by_contra hout
    exact hstep ⟨s.turn, Sync.runEvent_of_out_of_range hrun harb hout⟩
  · rintro hd ⟨turn, hstays⟩
    have hlt := Sync.lag_moved_lt (Config.queue_inRange s.cfg x) hd
    have hq := congrArg (State.queue · x) (Host.Outcome.next.inj ((c.runEvent_eq hrun harb d).symm.trans hstays))
    have hsame : ({ s with turn := turn } : State).queue x = s.queue x := by cases x <;> rfl
    rw [State.setQueue_queue, hsame] at hq
    have hp : Arbiter.grayCdc (c.moved (s.cfg.queue x) p d) = Arbiter.grayCdc p := (congrArg Queue.arbiter hq).trans harb
    rw [Arbiter.grayCdc.inj hp] at hlt
    exact absurd hlt (lt_irrefl _)

/-- A synchroniser whose copy is behind has a step (R86). -/
theorem Sync.agent_enabled {c : Sync} {s : State} {x : QueueId} {p : GrayPointers} (hrun : s.halted = false)
    (harb : (s.queue x).arbiter = .grayCdc p) (hlag : c.lag (s.cfg.queue x) p ≠ 0) : (c.agent x).Enabled s :=
  ⟨c.event x 1, c.agentOf_event x 1, (Sync.stepEnabled_iff hrun harb 1).2 ⟨le_rfl, Nat.pos_of_ne_zero hlag⟩⟩

/-- A step of a synchroniser brings its copy nearer. -/
theorem Sync.queueLag_lt_of_step {c : Sync} {s t : State} {e : Event} {x : QueueId} {p : GrayPointers}
    (hrun : s.halted = false) (harb : (s.queue x).arbiter = .grayCdc p) (hagent : agentOf e = some (c.agent x))
    (hstep : StepEnabled e s) (hnext : runEvent e s = .next t) :
    c.queueLag (s.cfg.queue x) (t.queue x) < c.queueLag (s.cfg.queue x) (s.queue x) := by
  obtain ⟨d, rfl⟩ := Sync.agentOf_eq hagent
  cases (c.runEvent_eq hrun harb d).symm.trans hnext
  rw [State.setQueue_queue, Sync.queueLag_grayCdc harb, Sync.queueLag_grayCdc rfl]
  exact Sync.lag_moved_lt (Config.queue_inRange s.cfg x) ((Sync.stepEnabled_iff hrun harb d).1 hstep)

/-- A number that never rises, and falls again and again as long as it is not 0, becomes 0. -/
theorem eventually_zero {lag : Nat → Nat} {n : Nat} (hle : ∀ m, n ≤ m → lag (m + 1) ≤ lag m)
    (hfalls : ∀ k, n ≤ k → (∀ m, k ≤ m → lag m ≠ 0) → ∃ m, k ≤ m ∧ lag (m + 1) < lag m) :
    ∃ m, n ≤ m ∧ lag m = 0 := by
  obtain ⟨v, hv⟩ : ∃ v, lag n = v := ⟨_, rfl⟩
  induction v using Nat.strong_induction_on generalizing n with
  | _ v ih =>
    by_contra hnone
    have hpos : ∀ m, n ≤ m → lag m ≠ 0 := fun m hm hzero => hnone ⟨m, hm, hzero⟩
    obtain ⟨m, hm, hlt⟩ := hfalls n le_rfl hpos
    have hdown : lag m ≤ lag n := antitoneOn_nat_Ici_of_succ_le hle (Set.mem_Ici.2 le_rfl) (Set.mem_Ici.2 hm) hm
    obtain ⟨m', hm', hzero⟩ := ih (lag (m + 1)) (by omega) (fun k hk => hle k (by omega))
      (fun k hk => hfalls k (by omega)) rfl
    exact hnone ⟨m', by omega, hzero⟩

/-- Under weak fairness a copy reaches a pointer that stands still: its synchroniser stays enabled until then. -/
theorem Sync.catches_up (c : Sync) {events : Nat → Event} {states : Nat → State} {x : QueueId} {n : Nat} {v : Count}
    (hrun : IsRun events states) (hfair : WeaklyFair events states)
    (hgood : ∀ m, n ≤ m → (states m).Inv ∧ (states m).halted = false)
    (hstill : ∀ m, n ≤ m → ∃ p, ((states m).queue x).arbiter = .grayCdc p ∧ c.source p = v) :
    ∃ m p, n ≤ m ∧ ((states m).queue x).arbiter = .grayCdc p ∧ c.copy p = v := by
  have hcfg (m : Nat) : (states (m + 1)).cfg = (states m).cfg := (runEvent_effect (hrun m)).cfg_eq
  obtain ⟨m, hm, hzero⟩ : ∃ m, n ≤ m ∧ c.queueLag ((states m).cfg.queue x) ((states m).queue x) = 0 := by
    refine eventually_zero (lag := fun m => c.queueLag ((states m).cfg.queue x) ((states m).queue x))
      (fun m hm => ?_) fun k hk hbehind => ?_
    · obtain ⟨p, hp, hv⟩ := hstill m hm
      obtain ⟨p', hp', hv'⟩ := hstill (m + 1) (Nat.le_succ_of_le hm)
      rw [hcfg, Sync.queueLag_grayCdc hp, Sync.queueLag_grayCdc hp']
      exact Sync.lag_le_of_effect (hgood m hm).1 (runEvent_effect (hrun m)) hp hp' (hv'.trans hv.symm)
    · obtain ⟨m, hm, hagent, hstep⟩ := hfair (c.agent x) k fun m hm => by
        obtain ⟨p, hp, -⟩ := hstill m (hk.trans hm)
        exact Sync.agent_enabled (hgood m (hk.trans hm)).2 hp (Sync.queueLag_grayCdc hp ▸ hbehind m hm)
      obtain ⟨p, hp, -⟩ := hstill m (hk.trans hm)
      refine ⟨m, hm, ?_⟩
      rw [hcfg]
      exact Sync.queueLag_lt_of_step (hgood m (hk.trans hm)).2 hp hagent hstep (hrun m)
  obtain ⟨p, hp, hv⟩ := hstill m hm
  rw [Sync.queueLag_grayCdc hp] at hzero
  obtain ⟨hs, -⟩ := hgood m hm
  have harb := (hs.queue_wf x).arbiter_wf
  rw [Queue.arbiterWf_grayCdc hp] at harb
  obtain ⟨hsource, hcopy⟩ := c.lt_of_wf harb.2
  exact ⟨m, p, hm, hp,
    (eq_of_pointerDistance_eq_zero (Config.queue_inRange _ x).one_le_n hsource hcopy hzero).trans hv⟩

/-- Settles O32: both synchronisers catch up. -/
theorem syncCatchesUpUnderWeakFairness : Obligations.SyncCatchesUpUnderWeakFairness :=
  fun _ _ _ _ _ hrun hfair hgood => ⟨Sync.catches_up .r2w hrun hfair hgood, Sync.catches_up .w2r hrun hfair hgood⟩

end Sys2Proof.Machine
end

section
/-! Maps of states that the rules of the commands respect, and one of them: a side of the block taken from one state and all
else from another. Each side's events respect it, hence the two sides do not interfere (R41). -/

namespace Sys2Proof.Machine

/-! ## Maps that a command respects -/

/-- The decision with its next state mapped. -/
def Action.map (f : State → State) (a : Action) : Action :=
  match a with
  | .respond st d u => .respond st d (f u)
  | .hold => .hold
  | .raise c => .raise c
  | .stop e => .stop e

/-- The outcome with its next state mapped. -/
def mapNext (f : State → State) (o : Host.Outcome State Fault Refusal) : Host.Outcome State Fault Refusal :=
  match o with
  | .next s => .next (f s)
  | .fault e => .fault e
  | .refused e => .refused e

/-- The reply of a slot operation with its queue mapped. -/
def Reply.mapQueue (h : Queue → Queue) (r : Reply) : Reply := { r with q := h r.q }

theorem mapNext_next {f : State → State} {o : Host.Outcome State Fault Refusal} {s : State} (h : o = .next s) :
    mapNext f o = .next (f s) := by
  rw [h, mapNext]

/-- What a map keeps so that the frame of R106 does not tell the two states apart. -/
structure State.FrameMap (f : State → State) (s : State) : Prop where
  turn : (f s).turn = s.turn
  halted : (f s).halted = s.halted
  timedAcquire : (f s).cfg.timedAcquire = s.cfg.timedAcquire
  answer : ∀ u r, f (u.answer s.turn.port r) = (f u).answer s.turn.port r
  raise : ∀ w c, f (s.raise s.turn.port w c) = (f s).raise s.turn.port w c

theorem State.FrameMap.conclude_map {f : State → State} {s : State} (hf : State.FrameMap f s) (i : Instr) (a : Action) :
    conclude i (f s) (a.map f) = mapNext f (conclude i s a) := by
  cases a with
  | respond st d u => exact congrArg Host.Outcome.next (by rw [hf.turn, hf.answer])
  | hold => rfl
  | raise c => exact congrArg Host.Outcome.next (by rw [hf.turn, hf.raise])
  | stop e => rfl

/-- A command respects a map that its rule respects wherever it is legal. -/
theorem State.FrameMap.exec_map {f : State → State} {s : State} (hf : State.FrameMap f s) (i : Instr)
    (hrule : legalOn s.cfg.timedAcquire s.turn.port i = true → commandRule i (f s) = (commandRule i s).map f) :
    exec i (f s) = mapNext f (exec i s) := by
  rw [exec_eq_command, exec_eq_command]
  cases hs : s.halted with
  | true => rw [command_halted i s _ hs, command_halted i (f s) _ (hf.halted.trans hs)]; rfl
  | false =>
    have hs' := hf.halted.trans hs
    cases hl : legalOn s.cfg.timedAcquire s.turn.port i with
    | true =>
      have hl' : legalOn (f s).cfg.timedAcquire (f s).turn.port i = true := by rwa [hf.timedAcquire, hf.turn]
      rw [command_legal i s _ hs hl, command_legal i (f s) _ hs' hl', hrule hl, hf.conclude_map]
    | false =>
      have hl' : legalOn (f s).cfg.timedAcquire (f s).turn.port i = false := by rwa [hf.timedAcquire, hf.turn]
      rw [command_illegal i s _ hs hl, command_illegal i (f s) _ hs' hl', hf.turn, mapNext, hf.raise]

section RuleMap

variable {f : State → State} {h : Queue → Queue} {s : State} {op : QueueParams → Nat → Queue → Except Fault Reply}

/-- An access to the write slot respects a map that its slot operation respects. -/
theorem writeRule_map (hheld : (f s).queueB.wHeld = s.queueB.wHeld)
    (hop : op (f s).cfg.b ((f s).queueB.writeSlot (f s).cfg.b) (f s).queueB =
      (op s.cfg.b (s.queueB.writeSlot s.cfg.b) s.queueB).map (Reply.mapQueue h))
    (hset : ∀ q, f { s with queueB := q } = { f s with queueB := h q }) :
    writeRule (f s) op = (writeRule s op).map f := by
  rw [writeRule, writeRule, hheld, hop]
  cases s.queueB.wHeld with
  | false => rfl
  | true =>
    cases op s.cfg.b (s.queueB.writeSlot s.cfg.b) s.queueB with
    | error e => rfl
    | ok r => exact congrArg (Action.respond r.st r.value) (hset r.q).symm

/-- An access to the read slot respects a map that its slot operation respects. -/
theorem readRule_map {x : QueueId} (hheld : ((f s).queue x).rHeld = (s.queue x).rHeld)
    (hop : op ((f s).cfg.queue x) (((f s).queue x).readSlot ((f s).cfg.queue x)) ((f s).queue x) =
      (op (s.cfg.queue x) ((s.queue x).readSlot (s.cfg.queue x)) (s.queue x)).map (Reply.mapQueue h))
    (hset : ∀ q, f (s.setQueue x q) = (f s).setQueue x (h q)) :
    readRule x (f s) op = (readRule x s op).map f := by
  rw [readRule, readRule, hheld, hop]
  cases (s.queue x).rHeld with
  | false => rfl
  | true =>
    cases op (s.cfg.queue x) ((s.queue x).readSlot (s.cfg.queue x)) (s.queue x) with
    | error e => rfl
    | ok r => exact congrArg (Action.respond r.st r.value) (hset r.q).symm

end RuleMap

/-! ## One side of the block in another block -/

/-- The side of the block a port belongs to (R41, R45). -/
def portSide (p : Port) : QueueId :=
  match p with
  | .i | .ca => .a
  | .pb | .cb => .b

/-- Side `x`, the configuration and the fault registers of `s`, all else of `r`. -/
def State.graft (s : State) (x : QueueId) (r : State) : State :=
  match x with
  | .a =>
    { s with queueB := r.queueB, portPB := r.portPB, portCB := r.portCB, turn := r.turn, tape := r.tape, drawn := r.drawn }
  | .b =>
    { s with
      parser := r.parser, queueA := r.queueA, portI := r.portI, portCA := r.portCA, turn := r.turn, tape := r.tape,
      drawn := r.drawn }

section Graft

variable (s : State) (x : QueueId) (r : State)

theorem State.graft_self : s.graft x s = s := by cases x <;> rfl
@[simp] theorem State.graft_cfg : (s.graft x r).cfg = s.cfg := by cases x <;> rfl
@[simp] theorem State.graft_fault : (s.graft x r).fault = s.fault := by cases x <;> rfl
@[simp] theorem State.graft_halted : (s.graft x r).halted = s.halted := by cases x <;> rfl
@[simp] theorem State.graft_turn : (s.graft x r).turn = r.turn := by cases x <;> rfl
@[simp] theorem State.graft_queue : (s.graft x r).queue x = s.queue x := by cases x <;> rfl

theorem State.graft_raise (p : Port) (w : Word) (c : FaultCode) :
    (s.raise p w c).graft x r = (s.graft x r).raise p w c := by cases x <;> rfl

theorem State.graft_setQueue (q : Queue) : (s.setQueue x q).graft x r = (s.graft x r).setQueue x q := by cases x <;> rfl

theorem State.graft_withTurn (turn : Turn) :
    ({ s.graft x r with turn := turn } : State) = ({ s with turn := turn } : State).graft x { r with turn := turn } := by
  cases x <;> rfl

variable {x} {p : Port} (hp : portSide p = x)

include hp

theorem State.graft_port : (s.graft x r).port p = s.port p := by
  subst hp
  cases p <;> rfl

theorem State.graft_setPort (v : PortState) : (s.setPort p v).graft x r = (s.graft x r).setPort p v := by
  subst hp
  cases p <;> rfl

end Graft

/-! ## The commands of one side -/

/-- The queue a consumer command acts on is the one of its port's side. -/
theorem queueOf_eq_portSide {p : Port} {i : Instr} (hi : i.belongsOn .ca = true) (hp : i.belongsOn p = true) :
    queueOf p = portSide p := by
  obtain rfl | rfl := belongsOn_consumer hi hp <;> rfl

theorem belongsOn_of_legalOn {timed : Bool} {p : Port} {i : Instr} (h : legalOn timed p i = true) :
    i.belongsOn p = true := by
  obtain ⟨hport, -⟩ : i.belongsOn p = true ∧ (timed = true ∨ i ≠ .acqwt) := by simpa [legalOn] using h
  exact hport

theorem map_mapQueue_id (e : Except Fault Reply) : e = e.map (Reply.mapQueue id) := by
  cases e <;> rfl

section GraftRule

variable {s r : State}

theorem writeRule_graft (op : QueueParams → Nat → Queue → Except Fault Reply) :
    writeRule (s.graft .b r) op = (writeRule s op).map (·.graft .b r) :=
  writeRule_map (f := (·.graft .b r)) (h := id) rfl (map_mapQueue_id _) fun _ => rfl

theorem readRule_graft (x : QueueId) (op : QueueParams → Nat → Queue → Except Fault Reply) :
    readRule x (s.graft x r) op = (readRule x s op).map (·.graft x r) := by
  refine readRule_map (f := (·.graft x r)) (h := id) ?_ ?_ fun q => State.graft_setQueue s x r q
  · rw [State.graft_queue]
  · rw [State.graft_queue, State.graft_cfg]
    exact map_mapQueue_id _

theorem acquireWriteSlot_graft {unavailable unavailable' : Action} (hun : unavailable' = unavailable.map (·.graft .b r)) :
    acquireWriteSlot (s.graft .b r) unavailable' = (acquireWriteSlot s unavailable).map (·.graft .b r) := by
  have hB : (s.graft .b r).queueB = s.queueB := rfl
  unfold acquireWriteSlot
  rw [hB, State.graft_cfg, hun]
  split
  · rfl
  · split
    · rfl
    · rfl

/-- The rule of a command reads and writes the side of its port alone, row by row of R50. -/
theorem commandRule_graft {i : Instr} (hport : i.belongsOn s.turn.port = true) (hturn : r.turn = s.turn) :
    commandRule i (s.graft (portSide s.turn.port) r) = (commandRule i s).map (·.graft (portSide s.turn.port) r) := by
  have producer (hi : i.belongsOn .pb = true) : portSide s.turn.port = .b := by
    rw [belongsOn_producer hi hport, portSide]
  have consumer (hi : i.belongsOn .ca = true) :
      s.consumed = portSide s.turn.port ∧ (s.graft (portSide s.turn.port) r).consumed = portSide s.turn.port := by
    rw [State.consumed, State.consumed, State.graft_turn, hturn]
    exact ⟨queueOf_eq_portSide hi hport, queueOf_eq_portSide hi hport⟩
  cases i with
  | acqw =>
    rw [producer rfl]
    exact acquireWriteSlot_graft rfl
  | acqwt =>
    rw [producer rfl]
    refine acquireWriteSlot_graft ?_
    rw [State.graft_turn, hturn]
    split <;> rfl
  | relw =>
    rw [producer rfl]
    have hB : (s.graft .b r).queueB = s.queueB := rfl
    simp only [commandRule, hB]
    split <;> rfl
  | addb b =>
    rw [producer rfl]
    simp only [commandRule]
    exact writeRule_graft _
  | wfull | wempty =>
    rw [producer rfl]
    simp only [commandRule]
    exact writeRule_graft _
  | acqr =>
    obtain ⟨hx, hx'⟩ := consumer rfl
    simp only [commandRule]
    rw [hx, hx', State.graft_queue, State.graft_cfg, ← State.graft_setQueue]
    split
    · rfl
    · split <;> rfl
  | relr =>
    obtain ⟨hx, hx'⟩ := consumer rfl
    simp only [commandRule]
    rw [hx, hx', State.graft_queue, State.graft_cfg, ← State.graft_setQueue]
    split <;> rfl
  | remb | peek | rfull | rempty =>
    obtain ⟨hx, hx'⟩ := consumer rfl
    simp only [commandRule]
    rw [hx, hx']
    exact readRule_graft _ _
  | pbyte b =>
    have hp : s.turn.port = .i := by
      cases h : s.turn.port with
      | i => rfl
      | ca | pb | cb => simp [h, Instr.belongsOn] at hport
    rw [hp]
    have hparser : (s.graft (portSide .i) r).parser = s.parser := rfl
    simp only [commandRule, hparser]
    split
    · rfl
    · split <;> rfl

theorem frameMap_graft (hturn : r.turn = s.turn) :
    State.FrameMap (·.graft (portSide s.turn.port) r) s where
  turn := by simp [hturn]
  halted := by simp
  timedAcquire := by simp
  answer u w := State.graft_setPort u r rfl _
  raise w c := State.graft_raise s _ r _ _ _

theorem exec_graft (i : Instr) (hturn : r.turn = s.turn) :
    exec i (s.graft (portSide s.turn.port) r) = mapNext (·.graft (portSide s.turn.port) r) (exec i s) :=
  (frameMap_graft hturn).exec_map i fun hlegal => commandRule_graft (belongsOn_of_legalOn hlegal) hturn

theorem dispatch_graft (hturn : r.turn = s.turn) :
    dispatch (s.graft (portSide s.turn.port) r) = mapNext (·.graft (portSide s.turn.port) r) (dispatch s) := by
  rw [dispatch, dispatch, State.graft_turn, hturn, State.graft_port s r rfl]
  cases (s.port s.turn.port).cmd with
  | none => rfl
  | some w =>
    dsimp only
    cases decode w with
    | ok i => exact exec_graft i hturn
    | error e =>
      simp only [illegalStep, State.graft_halted, State.graft_turn, hturn]
      split
      · rfl
      · exact congrArg Host.Outcome.next (State.graft_raise s _ r _ _ _).symm

end GraftRule

/-! ## The events of one side -/

/-- EMIT reads and writes the parser and queue A alone (R100). -/
theorem emitStep_graft (s r : State) : emitStep (s.graft .a r) = mapNext (·.graft .a r) (emitStep s) := by
  unfold emitStep
  have hen : (s.graft .a r).emitEnabled = s.emitEnabled := rfl
  have hparser : (s.graft .a r).parser = s.parser := rfl
  have hA : (s.graft .a r).queueA = s.queueA := rfl
  rw [hen, hparser, hA, State.graft_cfg]
  split
  · cases record s.parser.pendLen s.parser.data with
    | error f => rfl
    | ok bytes =>
      dsimp only
      cases cbWriteBlock s.cfg.a (s.queueA.writeSlot s.cfg.a) bytes s.queueA with
      | error f => rfl
      | ok out => rfl
  · rfl

theorem syncR2WStep_graft (s r : State) (x : QueueId) (d : Nat) :
    syncR2WStep x d (s.graft x r) = (syncR2WStep x d s).graft x r := by
  rw [syncR2WStep, syncR2WStep, State.graft_halted, State.graft_queue, State.graft_cfg, ← State.graft_setQueue]
  split <;> rfl

theorem syncW2RStep_graft (s r : State) (x : QueueId) (d : Nat) :
    syncW2RStep x d (s.graft x r) = (syncW2RStep x d s).graft x r := by
  rw [syncW2RStep, syncW2RStep, State.graft_halted, State.graft_queue, State.graft_cfg, ← State.graft_setQueue]
  split <;> rfl

theorem presentCommand_graft (s r : State) (p : Port) (w : Word) :
    presentCommand p w (s.graft (portSide p) r) = mapNext (·.graft (portSide p) r) (presentCommand p w s) := by
  rw [presentCommand, presentCommand, State.graft_port s r rfl, ← State.graft_setPort s r rfl]
  cases (s.port p).cmd with
  | none => rfl
  | some _ => rfl

/-- The note of the turn after an event (log 8). -/
def turnAfter (e : Event) (s : State) : Turn :=
  match e with
  | .turn p timeout => { port := p, timeout := timeout }
  | _ => s.turn

/-- An event of side `x` has the same effect on that side whatever stands elsewhere, and leaves it there, but for the note
of the turn. -/
theorem runEvent_graft {e : Event} {x : QueueId} (hside : sideOf e = some x) (s r : State) :
    runEvent e (s.graft x r) = mapNext (·.graft x { r with turn := turnAfter e r }) (runEvent e s) := by
  cases e with
  | turn p timeout =>
    obtain rfl : portSide p = x := by
      cases p <;> exact Option.some.inj hside
    have h := State.graft_withTurn s (portSide p) r ⟨p, timeout⟩
    exact (congrArg dispatch h).trans (dispatch_graft (s := { s with turn := ⟨p, timeout⟩ }) rfl)
  | emit =>
    cases hside
    exact emitStep_graft s r
  | syncR2W y d =>
    cases hside
    exact congrArg Host.Outcome.next (syncR2WStep_graft s r x d)
  | syncW2R y d =>
    cases hside
    exact congrArg Host.Outcome.next (syncW2RStep_graft s r x d)
  | present p w =>
    obtain rfl : portSide p = x := by
      cases p <;> exact Option.some.inj hside
    exact presentCommand_graft s r p w
  | reset => cases hside

theorem AgreeOnB.eq_graft {s s' : State} (h : AgreeOnB s s') : s' = s.graft .b s' := by
  obtain ⟨hcfg, hfault, hfcmd, hB, hPB, hCB⟩ := h
  simp only [State.graft, hcfg, hfault, hfcmd, hB, hPB, hCB]

theorem AgreeOnA.eq_graft {s s' : State} (h : AgreeOnA s s') : s' = s.graft .a s' := by
  obtain ⟨hcfg, hfault, hfcmd, hparser, hA, hI, hCA⟩ := h
  simp only [State.graft, hcfg, hfault, hfcmd, hparser, hA, hI, hCA]

/-- Seen from its own other side: what an event of side `x` leaves as it is. -/
theorem eq_graft_of_runEvent {e : Event} {x : QueueId} {s t : State} (hside : sideOf e = some x)
    (hnext : runEvent e s = .next t) : t = t.graft x { s with turn := turnAfter e s } := by
  have hown := (runEvent_graft hside s s).trans (mapNext_next hnext)
  rw [State.graft_self] at hown
  exact Host.Outcome.next.inj (hnext.symm.trans hown)

/-- Settles O55: grafting another block's other side changes nothing on the event's own side; grafting the block's own other
side shows that this one stays. -/
theorem queuesDoNotInterfere : Obligations.QueuesDoNotInterfere := by
  refine ⟨fun e s s' t hside hagree hnext => ?_, fun e s s' t hside hagree hnext => ?_⟩
  · have hother := (runEvent_graft hside s s').trans (mapNext_next hnext)
    rw [← hagree.eq_graft] at hother
    have frame {α : Type} (field : State → α) := congrArg field (eq_graft_of_runEvent hside hnext)
    exact ⟨⟨_, hother, rfl, rfl, rfl, rfl, rfl, rfl⟩, frame State.parser, frame State.queueA, frame State.portI,
      frame State.portCA⟩
  · have hother := (runEvent_graft hside s s').trans (mapNext_next hnext)
    rw [← hagree.eq_graft] at hother
    have frame {α : Type} (field : State → α) := congrArg field (eq_graft_of_runEvent hside hnext)
    exact ⟨⟨_, hother, rfl, rfl, rfl, rfl, rfl, rfl, rfl⟩, frame State.queueB, frame State.portPB, frame State.portCB⟩

end Sys2Proof.Machine
end

section
/-! A GRAY_CDC queue and the SEMAPHORE queue of the same history (R82, R87 (c), (d)): every operation on the one is, seen
through the counters that the true F gives, the same operation on the other, and every step of the block is a step of the
SEMAPHORE block or none. -/

namespace Sys2Proof.Machine

/-! ## The counters of the same history -/

theorem Count.ofNat_add_one (k : Nat) : BitVec.ofNat 9 (k + 1) = BitVec.ofNat 9 k + 1 := BitVec.ofNat_add k 1

theorem Count.ofNat_sub_one {k : Nat} (h : 1 ≤ k) : BitVec.ofNat 9 k - 1 = BitVec.ofNat 9 (k - 1) := by
  obtain ⟨m, rfl⟩ := Nat.exists_eq_add_of_le' h
  rw [Count.ofNat_add_one, Nat.add_sub_cancel]
  exact BitVec.add_sub_cancel _ _

/-- A slot index fits its byte (R3). -/
theorem slotIndex_toNat {g : QueueParams} (hg : g.InRange) (k : Nat) : (BitVec.ofNat 8 (k % g.n)).toNat = k % g.n := by
  have hlt := Nat.mod_lt k hg.one_le_n
  have hn' := hg.n_le
  exact Nat.mod_eq_of_lt (show k % g.n < 2 ^ 8 by omega)

/-- The index after a pointer's slot is the slot of the pointer moved on by one (R69, R82, R85). -/
theorem nextIndex_slotIndex {g : QueueParams} (hg : g.InRange) (p : Count) :
    nextIndex g (BitVec.ofNat 8 (p.toNat % g.n)) = BitVec.ofNat 8 ((pointerAdvance g p 1).toNat % g.n) := by
  refine congrArg (BitVec.ofNat 8) ?_
  rw [slotIndex_toNat hg, Nat.mod_add_mod]
  exact ((pointerAdvance_modEq hg p 1).of_mul_left 2).symm

/-- The same parameters with semaphores. -/
def QueueParams.toSemaphore (g : QueueParams) : QueueParams := { g with arbiter := .semaphore }

theorem Config.toSemaphore_queue (c : Config) (x : QueueId) :
    (Config.toSemaphore c).queue x = QueueParams.toSemaphore (c.queue x) := by
  cases x <;> rfl

section QueueView

variable {g : QueueParams} {q : Queue}

@[simp] theorem Queue.toSemaphore_slots : (q.toSemaphore g).slots = q.slots := by
  unfold Queue.toSemaphore
  split <;> rfl

@[simp] theorem Queue.toSemaphore_ram : (q.toSemaphore g).ram = q.ram := by
  unfold Queue.toSemaphore
  split <;> rfl

@[simp] theorem Queue.toSemaphore_wHeld : (q.toSemaphore g).wHeld = q.wHeld := by
  unfold Queue.toSemaphore
  split <;> rfl

@[simp] theorem Queue.toSemaphore_rHeld : (q.toSemaphore g).rHeld = q.rHeld := by
  unfold Queue.toSemaphore
  split <;> rfl

@[simp] theorem Queue.toSemaphore_slot (j : Nat) : (q.toSemaphore g).slot j = q.slot j :=
  Queue.slot_congr Queue.toSemaphore_slots j

theorem Queue.toSemaphore_of_semaphore {c : Semaphores} (h : q.arbiter = .semaphore c) : q.toSemaphore g = q := by
  simp [Queue.toSemaphore, h]

/-- The counters of the same history, by R16, R17 and R82. -/
theorem Queue.toSemaphore_of_grayCdc {p : GrayPointers} (h : q.arbiter = .grayCdc p) :
    q.toSemaphore g =
      { q with
        arbiter := .semaphore
          { wIdx := BitVec.ofNat 8 (p.wPtr.toNat % g.n),
            rIdx := BitVec.ofNat 8 (p.rPtr.toNat % g.n),
            semW := BitVec.ofNat 9 (g.n - pointerDistance g p.wPtr p.rPtr - q.wHeld.toNat),
            semR := BitVec.ofNat 9 (pointerDistance g p.wPtr p.rPtr - q.rHeld.toNat) } } := by
  simp [Queue.toSemaphore, h]

theorem Queue.toSemaphore_writeSlot (hg : g.InRange) : (q.toSemaphore g).writeSlot g = q.writeSlot g := by
  cases ha : q.arbiter with
  | semaphore c => rw [Queue.toSemaphore_of_semaphore ha]
  | grayCdc p =>
    rw [Queue.toSemaphore_of_grayCdc ha, Queue.writeSlot_semaphore rfl, Queue.writeSlot_grayCdc ha]
    exact slotIndex_toNat hg _

theorem Queue.toSemaphore_readSlot (hg : g.InRange) : (q.toSemaphore g).readSlot g = q.readSlot g := by
  cases ha : q.arbiter with
  | semaphore c => rw [Queue.toSemaphore_of_semaphore ha]
  | grayCdc p =>
    rw [Queue.toSemaphore_of_grayCdc ha, Queue.readSlot_semaphore rfl, Queue.readSlot_grayCdc ha]
    exact slotIndex_toNat hg _

/-! ## The slot operations -/

theorem Queue.toSemaphore_setSlot (j : Nat) (v : Slot) :
    (q.setSlot j v).toSemaphore g = (q.toSemaphore g).setSlot j v := by
  cases ha : q.arbiter <;> simp [Queue.toSemaphore, Queue.setSlot, ha]

theorem ramRead_toSemaphore (a : Nat) : ramRead g (q.toSemaphore g) a = ramRead g q a := by
  rw [ramRead, ramRead, Queue.toSemaphore_ram]

theorem ramWrite_toSemaphore (a : Nat) (v : Byte) :
    ramWrite g (q.toSemaphore g) a v = (ramWrite g q a v).map (Queue.toSemaphore g) := by
  unfold ramWrite
  split
  · cases ha : q.arbiter <;> simp [Queue.toSemaphore, Except.map, ha]
  · rfl

theorem cbAddByte_toSemaphore (j : Nat) (b : Byte) :
    cbAddByte g j b (q.toSemaphore g) = (cbAddByte g j b q).map (Reply.mapQueue (Queue.toSemaphore g)) := by
  simp only [cbAddByte, Queue.toSemaphore_slot, ramWrite_toSemaphore]
  split
  · rfl
  · cases ramWrite g q (slotAddr g j (q.slot j).wr.toNat) b with
    | error f => rfl
    | ok q' => simp only [Except.map, Reply.mapQueue, Queue.toSemaphore_setSlot]

theorem cbRemoveByte_toSemaphore (j : Nat) :
    cbRemoveByte g j (q.toSemaphore g) = (cbRemoveByte g j q).map (Reply.mapQueue (Queue.toSemaphore g)) := by
  simp only [cbRemoveByte, Queue.toSemaphore_slot, ramRead_toSemaphore]
  split
  · rfl
  · cases ramRead g q (slotAddr g j (q.slot j).rd.toNat) with
    | error f => rfl
    | ok v => simp only [Except.map, Reply.mapQueue, Queue.toSemaphore_setSlot]

theorem cbPeekByte_toSemaphore (j : Nat) :
    cbPeekByte g j (q.toSemaphore g) = (cbPeekByte g j q).map (Reply.mapQueue (Queue.toSemaphore g)) := by
  simp only [cbPeekByte, Queue.toSemaphore_slot, ramRead_toSemaphore]
  split
  · rfl
  · cases ramRead g q (slotAddr g j (q.slot j).rd.toNat) with
    | error f => rfl
    | ok v => rfl

theorem cbWriteBlock_toSemaphore {j : Nat} {bytes : List Byte} {q' : Queue} {sts : List Status}
    (h : cbWriteBlock g j bytes q = .ok (sts, q')) :
    cbWriteBlock (QueueParams.toSemaphore g) j bytes (q.toSemaphore g) = .ok (sts, q'.toSemaphore g) := by
  induction bytes generalizing q sts with
  | nil =>
    obtain ⟨rfl, rfl⟩ : [] = sts ∧ q = q' := by simpa [cbWriteBlock] using h
    rfl
  | cons b rest ih =>
    obtain ⟨r, sts', hb, hrest⟩ := cbWriteBlock_cons_ok h
    cases (cbWriteBlock_cons hb hrest).symm.trans h
    have hb' : cbAddByte (QueueParams.toSemaphore g) j b (q.toSemaphore g) = .ok (r.mapQueue (Queue.toSemaphore g)) :=
      (cbAddByte_toSemaphore (g := g) j b).trans (by rw [hb, Except.map])
    exact cbWriteBlock_cons (r := r.mapQueue (Queue.toSemaphore g)) hb' (ih hrest)

theorem cbReset_toSemaphore (j : Nat) : (cbReset g j q).toSemaphore g = cbReset g j (q.toSemaphore g) := by
  cases ha : q.arbiter <;> simp [Queue.toSemaphore, cbReset, Queue.setSlot, ha]

/-! ## Acquires and releases -/

/-- Where the producer sees room, the true F leaves room (R87 (c)). -/
theorem Queue.canAcquireWrite_toSemaphore (h : q.ArbiterWf g) (hg : g.InRange) (hheld : q.wHeld = false)
    (hfree : q.canAcquireWrite g = true) : (q.toSemaphore g).canAcquireWrite g = true := by
  have hlt := h.filled_lt hg.one_le_n hfree
  cases ha : q.arbiter with
  | semaphore c => rwa [Queue.toSemaphore_of_semaphore ha]
  | grayCdc p =>
    rw [Queue.filled_grayCdc ha] at hlt
    have hn' := hg.n_le
    have hsemW : (BitVec.ofNat 9 (g.n - pointerDistance g p.wPtr p.rPtr - false.toNat)).toNat =
        g.n - pointerDistance g p.wPtr p.rPtr := Nat.mod_eq_of_lt (show _ < 2 ^ 9 by simp; omega)
    rw [Queue.toSemaphore_of_grayCdc ha, hheld]
    exact decide_eq_true (by rw [hsemW]; omega)

/-- Where the consumer sees a filled slot, the true F counts one (R87 (c)). -/
theorem Queue.canAcquireRead_toSemaphore (h : q.ArbiterWf g) (hg : g.InRange) (hheld : q.rHeld = false)
    (hsome : q.canAcquireRead g = true) : (q.toSemaphore g).canAcquireRead g = true := by
  cases ha : q.arbiter with
  | semaphore c => rwa [Queue.toSemaphore_of_semaphore ha]
  | grayCdc p =>
    have hle := h.filled_add_wHeld_le hg.one_le_n
    have hpos : 1 ≤ q.acquireRead.filled g := by
      simpa using (h.acquireRead hheld hsome).rHeld_le_filled hg.one_le_n
    rw [Queue.acquireRead_filled hheld hsome, Queue.filled_grayCdc ha] at hpos
    rw [Queue.filled_grayCdc ha] at hle
    have hn' := hg.n_le
    have hsemR : (BitVec.ofNat 9 (pointerDistance g p.wPtr p.rPtr - false.toNat)).toNat =
        pointerDistance g p.wPtr p.rPtr := Nat.mod_eq_of_lt (show _ < 2 ^ 9 by simp; omega)
    rw [Queue.toSemaphore_of_grayCdc ha, hheld]
    exact decide_eq_true (by rw [hsemR]; omega)

theorem Queue.acquireWrite_toSemaphore (hheld : q.wHeld = false) (hlt : q.filled g < g.n) :
    q.acquireWrite.toSemaphore g = (q.toSemaphore g).acquireWrite := by
  cases ha : q.arbiter with
  | semaphore c =>
    rw [Queue.toSemaphore_of_semaphore ha, Queue.acquireWrite_semaphore ha, Queue.toSemaphore_of_semaphore rfl]
  | grayCdc p =>
    rw [Queue.filled_grayCdc ha] at hlt
    have hsemW : BitVec.ofNat 9 (g.n - pointerDistance g p.wPtr p.rPtr - false.toNat) - 1 =
        BitVec.ofNat 9 (g.n - pointerDistance g p.wPtr p.rPtr - true.toNat) :=
      Count.ofNat_sub_one (by simp; omega)
    rw [Queue.acquireWrite_grayCdc ha, Queue.toSemaphore_of_grayCdc rfl, Queue.toSemaphore_of_grayCdc ha,
      Queue.acquireWrite_semaphore rfl, hheld]
    simp only [hsemW]

theorem Queue.acquireRead_toSemaphore (h : q.ArbiterWf g) (hg : g.InRange) (hheld : q.rHeld = false)
    (hsome : q.canAcquireRead g = true) : q.acquireRead.toSemaphore g = (q.toSemaphore g).acquireRead := by
  cases ha : q.arbiter with
  | semaphore c =>
    rw [Queue.toSemaphore_of_semaphore ha, Queue.acquireRead_semaphore ha, Queue.toSemaphore_of_semaphore rfl]
  | grayCdc p =>
    have hpos : 1 ≤ q.acquireRead.filled g := by
      simpa using (h.acquireRead hheld hsome).rHeld_le_filled hg.one_le_n
    rw [Queue.acquireRead_filled hheld hsome, Queue.filled_grayCdc ha] at hpos
    have hsemR : BitVec.ofNat 9 (pointerDistance g p.wPtr p.rPtr - false.toNat) - 1 =
        BitVec.ofNat 9 (pointerDistance g p.wPtr p.rPtr - true.toNat) :=
      Count.ofNat_sub_one hpos
    rw [Queue.acquireRead_grayCdc ha, Queue.toSemaphore_of_grayCdc rfl, Queue.toSemaphore_of_grayCdc ha,
      Queue.acquireRead_semaphore rfl, hheld]
    simp only [hsemR]

theorem Queue.releaseWrite_toSemaphore (h : q.ArbiterWf g) (hg : g.InRange) (hheld : q.wHeld = true) :
    (q.releaseWrite g).toSemaphore g = (q.toSemaphore g).releaseWrite g := by
  cases ha : q.arbiter with
  | semaphore c =>
    rw [Queue.toSemaphore_of_semaphore ha, Queue.releaseWrite_semaphore g ha, Queue.toSemaphore_of_semaphore rfl]
  | grayCdc p =>
    have hseen := h.rHeld_le_filled hg.one_le_n
    have hfilled := h.releaseWrite_filled hg hheld
    rw [Queue.releaseWrite_grayCdc ha, Queue.filled_grayCdc rfl, Queue.filled_grayCdc ha] at hfilled
    rw [Queue.filled_grayCdc ha] at hseen
    have hsemR : BitVec.ofNat 9 (pointerDistance g p.wPtr p.rPtr - q.rHeld.toNat) + 1 =
        BitVec.ofNat 9 (pointerDistance g p.wPtr p.rPtr + 1 - q.rHeld.toNat) := by
      rw [← Count.ofNat_add_one, Nat.sub_add_comm hseen]
    have hsemW : g.n - pointerDistance g p.wPtr p.rPtr - true.toNat =
        g.n - (pointerDistance g p.wPtr p.rPtr + 1) - false.toNat := by
      simp only [Bool.toNat_true, Bool.toNat_false]
      omega
    rw [Queue.releaseWrite_grayCdc ha, Queue.toSemaphore_of_grayCdc rfl, Queue.toSemaphore_of_grayCdc ha,
      Queue.releaseWrite_semaphore g rfl, nextIndex_slotIndex hg, hheld]
    simp only [hsemR, hsemW, hfilled]

theorem Queue.freeReadSlot_toSemaphore (h : q.ArbiterWf g) (hg : g.InRange) (hheld : q.rHeld = true) :
    (q.freeReadSlot g).toSemaphore g = (q.toSemaphore g).freeReadSlot g := by
  cases ha : q.arbiter with
  | semaphore c =>
    rw [Queue.toSemaphore_of_semaphore ha, Queue.freeReadSlot_semaphore ha g, Queue.toSemaphore_of_semaphore rfl]
  | grayCdc p =>
    have hle := h.filled_add_wHeld_le hg.one_le_n
    have hfilled := h.freeReadSlot_filled hg hheld
    rw [Queue.freeReadSlot_grayCdc ha, Queue.filled_grayCdc rfl, Queue.filled_grayCdc ha] at hfilled
    rw [Queue.filled_grayCdc ha] at hle
    rw [Queue.freeReadSlot_grayCdc ha, Queue.toSemaphore_of_grayCdc rfl, Queue.toSemaphore_of_grayCdc ha,
      Queue.freeReadSlot_semaphore rfl g, nextIndex_slotIndex hg, hheld, ← Count.ofNat_add_one]
    simp only [← hfilled] at hle ⊢
    have hsemW : g.n - (pointerDistance g p.wPtr (pointerAdvance g p.rPtr 1) + 1) - q.wHeld.toNat + 1 =
        g.n - pointerDistance g p.wPtr (pointerAdvance g p.rPtr 1) - q.wHeld.toNat := by omega
    rw [hsemW]
    rfl

theorem Queue.releaseRead_toSemaphore (h : q.ArbiterWf g) (hg : g.InRange) (hheld : q.rHeld = true) :
    (q.releaseRead g).toSemaphore g = (q.toSemaphore g).releaseRead g := by
  have harb : (cbReset g (q.readSlot g) q).ArbiterWf g := h
  rw [Queue.releaseRead, Queue.freeReadSlot_toSemaphore harb hg hheld, cbReset_toSemaphore, Queue.releaseRead,
    Queue.toSemaphore_readSlot hg]

/-- The synchronisers do not show in the counters that the true F gives (R87 (c)). -/
theorem Queue.syncR2W_toSemaphore (d : Nat) : (q.syncR2W g d).toSemaphore g = q.toSemaphore g := by
  cases ha : q.arbiter with
  | semaphore c => rw [Queue.syncR2W_semaphore ha]
  | grayCdc p =>
    rw [Queue.syncR2W_grayCdc ha, Queue.toSemaphore_of_grayCdc rfl, Queue.toSemaphore_of_grayCdc ha]

theorem Queue.syncW2R_toSemaphore (d : Nat) : (q.syncW2R g d).toSemaphore g = q.toSemaphore g := by
  cases ha : q.arbiter with
  | semaphore c => rw [Queue.syncW2R_semaphore ha]
  | grayCdc p =>
    rw [Queue.syncW2R_grayCdc ha, Queue.toSemaphore_of_grayCdc rfl, Queue.toSemaphore_of_grayCdc ha]

theorem Queue.reset_toSemaphore (hg : g.InRange) :
    (Queue.reset g).toSemaphore g = Queue.reset (QueueParams.toSemaphore g) := by
  cases hkind : g.arbiter with
  | semaphore =>
    have hsame : QueueParams.toSemaphore g = g := by rw [QueueParams.toSemaphore, ← hkind]
    rw [hsame]
    exact Queue.toSemaphore_of_semaphore (Arbiter.reset_semaphore hkind)
  | grayCdc =>
    have harb : (Queue.reset g).arbiter = _ := Arbiter.reset_grayCdc hkind
    rw [Queue.toSemaphore_of_grayCdc harb, pointerDistance_self _ hg.one_le_n]
    simp [Queue.reset, Arbiter.reset, QueueParams.toSemaphore]

end QueueView

/-! ## The block -/

section BlockView

variable {s : State}

theorem State.toSemaphore_queue (x : QueueId) : s.toSemaphore.queue x = (s.queue x).toSemaphore (s.cfg.queue x) := by
  cases x <;> rfl

theorem State.toSemaphore_port (p : Port) : s.toSemaphore.port p = s.port p := by cases p <;> rfl

theorem State.toSemaphore_setPort (p : Port) (v : PortState) :
    (s.setPort p v).toSemaphore = s.toSemaphore.setPort p v := by cases p <;> rfl

theorem State.toSemaphore_setQueue (x : QueueId) (q : Queue) :
    (s.setQueue x q).toSemaphore = s.toSemaphore.setQueue x (q.toSemaphore (s.cfg.queue x)) := by
  cases x <;> rfl

theorem frameMap_toSemaphore : State.FrameMap State.toSemaphore s where
  turn := rfl
  halted := rfl
  timedAcquire := rfl
  answer _ _ := State.toSemaphore_setPort _ _
  raise _ _ := rfl

/-- An access to the write slot looks the same in the SEMAPHORE block. -/
theorem writeRule_toSemaphore {op : QueueParams → Nat → Queue → Except Fault Reply}
    (hop : op (QueueParams.toSemaphore s.cfg.b) (s.queueB.writeSlot s.cfg.b) (s.queueB.toSemaphore s.cfg.b) =
      (op s.cfg.b (s.queueB.writeSlot s.cfg.b) s.queueB).map (Reply.mapQueue (Queue.toSemaphore s.cfg.b))) :
    writeRule s.toSemaphore op = (writeRule s op).map State.toSemaphore := by
  refine writeRule_map (h := Queue.toSemaphore s.cfg.b) Queue.toSemaphore_wHeld ?_ fun _ => rfl
  have hslot : s.toSemaphore.queueB.writeSlot s.toSemaphore.cfg.b = s.queueB.writeSlot s.cfg.b :=
    Queue.toSemaphore_writeSlot (g := s.cfg.b) (Config.queue_inRange s.cfg .b)
  rw [hslot]
  exact hop

/-- An access to the read slot looks the same in the SEMAPHORE block. -/
theorem readRule_toSemaphore {x : QueueId} {op : QueueParams → Nat → Queue → Except Fault Reply}
    (hop : op (QueueParams.toSemaphore (s.cfg.queue x)) ((s.queue x).readSlot (s.cfg.queue x))
        ((s.queue x).toSemaphore (s.cfg.queue x)) =
      (op (s.cfg.queue x) ((s.queue x).readSlot (s.cfg.queue x)) (s.queue x)).map
        (Reply.mapQueue (Queue.toSemaphore (s.cfg.queue x)))) :
    readRule x s.toSemaphore op = (readRule x s op).map State.toSemaphore := by
  have hcfg : s.toSemaphore.cfg.queue x = QueueParams.toSemaphore (s.cfg.queue x) := Config.toSemaphore_queue s.cfg x
  have hslot : ((s.queue x).toSemaphore (s.cfg.queue x)).readSlot (QueueParams.toSemaphore (s.cfg.queue x)) =
      (s.queue x).readSlot (s.cfg.queue x) :=
    Queue.toSemaphore_readSlot (g := s.cfg.queue x) (Config.queue_inRange s.cfg x)
  refine readRule_map (h := Queue.toSemaphore (s.cfg.queue x)) ?_ ?_ fun q => State.toSemaphore_setQueue x q
  · rw [State.toSemaphore_queue, Queue.toSemaphore_rHeld]
  · rw [State.toSemaphore_queue, hcfg, hslot]
    exact hop

/-- An acquire for writing looks the same in the SEMAPHORE block, or finds no slot here. -/
theorem acquireWriteSlot_toSemaphore (hs : s.Inv) (unavailable unavailable' : Action) :
    acquireWriteSlot s.toSemaphore unavailable' = (acquireWriteSlot s unavailable).map State.toSemaphore ∨
      acquireWriteSlot s unavailable = unavailable := by
  have hg := Config.queue_inRange s.cfg .b
  have harb := hs.queueB_wf.arbiter_wf
  cases hheld : s.queueB.wHeld with
  | true =>
    have hheld' : s.toSemaphore.queueB.wHeld = true := Queue.toSemaphore_wHeld.trans hheld
    exact .inl (by rw [acquireWriteSlot_of_held _ hheld, acquireWriteSlot_of_held _ hheld']; rfl)
  | false =>
    cases hfree : s.queueB.canAcquireWrite s.cfg.b with
    | false => exact .inr (acquireWriteSlot_of_unavailable _ hheld hfree)
    | true =>
      have hheld' : s.toSemaphore.queueB.wHeld = false := Queue.toSemaphore_wHeld.trans hheld
      have hfree' : s.toSemaphore.queueB.canAcquireWrite s.toSemaphore.cfg.b = true :=
        Queue.canAcquireWrite_toSemaphore (g := s.cfg.b) harb hg hheld hfree
      have hacq : s.queueB.acquireWrite.toSemaphore s.cfg.b = s.toSemaphore.queueB.acquireWrite :=
        Queue.acquireWrite_toSemaphore hheld (harb.filled_lt hg.one_le_n hfree)
      refine .inl ?_
      rw [acquireWriteSlot_of_available _ hheld hfree, acquireWriteSlot_of_available _ hheld' hfree', ← hacq]
      rfl

/-- RELW looks the same in the SEMAPHORE block. -/
theorem commandRule_relw_toSemaphore (hs : s.Inv) :
    commandRule .relw s.toSemaphore = (commandRule .relw s).map State.toSemaphore := by
  have hheld' : s.toSemaphore.queueB.wHeld = s.queueB.wHeld := Queue.toSemaphore_wHeld
  simp only [commandRule, hheld']
  split
  next hheld =>
    have hrel : (s.queueB.releaseWrite s.cfg.b).toSemaphore s.cfg.b =
        s.toSemaphore.queueB.releaseWrite s.toSemaphore.cfg.b :=
      Queue.releaseWrite_toSemaphore hs.queueB_wf.arbiter_wf (Config.queue_inRange s.cfg .b) hheld
    rw [← hrel]
    rfl
  next => rfl

/-- RELR looks the same in the SEMAPHORE block. -/
theorem commandRule_relr_toSemaphore (hs : s.Inv) :
    commandRule .relr s.toSemaphore = (commandRule .relr s).map State.toSemaphore := by
  have hx : s.toSemaphore.consumed = s.consumed := rfl
  simp only [commandRule, hx, State.toSemaphore_queue, Queue.toSemaphore_rHeld]
  split
  next hheld =>
    have hcfg : s.toSemaphore.cfg.queue s.consumed = QueueParams.toSemaphore (s.cfg.queue s.consumed) :=
      Config.toSemaphore_queue s.cfg s.consumed
    have hrel : ((s.queue s.consumed).releaseRead (s.cfg.queue s.consumed)).toSemaphore (s.cfg.queue s.consumed) =
        ((s.queue s.consumed).toSemaphore (s.cfg.queue s.consumed)).releaseRead
          (QueueParams.toSemaphore (s.cfg.queue s.consumed)) :=
      Queue.releaseRead_toSemaphore (hs.queue_wf _).arbiter_wf (Config.queue_inRange s.cfg _) hheld
    rw [Action.map, State.toSemaphore_setQueue, hcfg, hrel]
  next => rfl

/-- ACQR looks the same in the SEMAPHORE block, or finds no filled slot here and holds. -/
theorem commandRule_acqr_toSemaphore (hs : s.Inv) :
    commandRule .acqr s.toSemaphore = (commandRule .acqr s).map State.toSemaphore ∨ commandRule .acqr s = .hold := by
  have hx : s.toSemaphore.consumed = s.consumed := rfl
  have hcfg : s.toSemaphore.cfg.queue s.consumed = QueueParams.toSemaphore (s.cfg.queue s.consumed) :=
    Config.toSemaphore_queue s.cfg s.consumed
  have hg := Config.queue_inRange s.cfg s.consumed
  have harb := (hs.queue_wf s.consumed).arbiter_wf
  simp only [commandRule, hx, hcfg, State.toSemaphore_queue, Queue.toSemaphore_rHeld]
  split
  next => exact .inl rfl
  next hheld =>
    have hfree : (s.queue s.consumed).rHeld = false := by simpa using hheld
    cases hsome : (s.queue s.consumed).canAcquireRead (s.cfg.queue s.consumed) with
    | true =>
      have hsome' : ((s.queue s.consumed).toSemaphore (s.cfg.queue s.consumed)).canAcquireRead
          (QueueParams.toSemaphore (s.cfg.queue s.consumed)) = true :=
        Queue.canAcquireRead_toSemaphore (g := s.cfg.queue s.consumed) harb hg hfree hsome
      refine .inl ?_
      rw [if_pos hsome', ← Queue.acquireRead_toSemaphore harb hg hfree hsome, if_pos rfl, Action.map,
        State.toSemaphore_setQueue]
    | false => exact .inr rfl

theorem cbIsFull_toSemaphore (g : QueueParams) (j : Nat) (q : Queue) :
    cbIsFull (QueueParams.toSemaphore g) j (q.toSemaphore g) = (cbIsFull g j q).mapQueue (Queue.toSemaphore g) := by
  rw [cbIsFull, Queue.toSemaphore_slot]
  rfl

theorem cbIsEmpty_toSemaphore (g : QueueParams) (j : Nat) (q : Queue) :
    cbIsEmpty j (q.toSemaphore g) = (cbIsEmpty j q).mapQueue (Queue.toSemaphore g) := by
  rw [cbIsEmpty, Queue.toSemaphore_slot]
  rfl

/-- Row by row of R50: a rule looks the same in the SEMAPHORE block, or it has no slot here and holds or times out. -/
theorem commandRule_toSemaphore (hs : s.Inv) (i : Instr) :
    commandRule i s.toSemaphore = (commandRule i s).map State.toSemaphore ∨ commandRule i s = .hold ∨
      (i = .acqwt ∧ commandRule i s = .respond .timeout 0 s) := by
  have hx : s.toSemaphore.consumed = s.consumed := rfl
  cases i with
  | acqw => exact (acquireWriteSlot_toSemaphore hs .hold .hold).imp_right .inl
  | acqwt =>
    obtain hsame | hnone := acquireWriteSlot_toSemaphore hs (if s.turn.timeout then .respond .timeout 0 s else .hold)
      (if s.turn.timeout then .respond .timeout 0 s.toSemaphore else .hold)
    · exact .inl hsame
    · have hrule : commandRule .acqwt s = if s.turn.timeout then .respond .timeout 0 s else .hold := hnone
      rw [hrule]
      refine .inr ?_
      split
      · exact .inr ⟨rfl, rfl⟩
      · exact .inl rfl
  | relw => exact .inl (commandRule_relw_toSemaphore hs)
  | relr => exact .inl (commandRule_relr_toSemaphore hs)
  | acqr => exact (commandRule_acqr_toSemaphore hs).imp_right .inl
  | addb b =>
    simp only [commandRule]
    exact .inl (writeRule_toSemaphore (cbAddByte_toSemaphore _ b))
  | wfull =>
    simp only [commandRule]
    exact .inl (writeRule_toSemaphore (congrArg Except.ok (cbIsFull_toSemaphore _ _ _)))
  | wempty =>
    simp only [commandRule]
    exact .inl (writeRule_toSemaphore (congrArg Except.ok (cbIsEmpty_toSemaphore _ _ _)))
  | remb =>
    simp only [commandRule, hx]
    exact .inl (readRule_toSemaphore (cbRemoveByte_toSemaphore _))
  | peek =>
    simp only [commandRule, hx]
    exact .inl (readRule_toSemaphore (cbPeekByte_toSemaphore _))
  | rfull =>
    simp only [commandRule, hx]
    exact .inl (readRule_toSemaphore (congrArg Except.ok (cbIsFull_toSemaphore _ _ _)))
  | rempty =>
    simp only [commandRule, hx]
    exact .inl (readRule_toSemaphore (congrArg Except.ok (cbIsEmpty_toSemaphore _ _ _)))
  | pbyte b =>
    refine .inl ?_
    have hparser : s.toSemaphore.parser = s.parser := rfl
    simp only [commandRule, hparser]
    split
    · rfl
    · split <;> rfl

/-- What a command does here it does in the SEMAPHORE block, but for a hold and a TIMEOUT. -/
theorem exec_toSemaphore (hs : s.Inv) {i : Instr} {t : State} (hnext : exec i s = .next t) :
    exec i s.toSemaphore = .next t.toSemaphore ∨ t = s ∨
      (s.turn.port = .pb ∧ t = s.answer .pb (responseWord .timeout 0)) := by
  have same (hrule : legalOn s.cfg.timedAcquire s.turn.port i = true →
      commandRule i s.toSemaphore = (commandRule i s).map State.toSemaphore) :
      exec i s.toSemaphore = .next t.toSemaphore :=
    (frameMap_toSemaphore.exec_map i hrule).trans (mapNext_next hnext)
  by_cases hlegal : legalOn s.cfg.timedAcquire s.turn.port i = true
  · cases hrun : s.halted with
    | true =>
      cases (exec_halted i hrun).symm.trans hnext
      exact .inr (.inl rfl)
    | false =>
      rw [exec_eq_command, command_legal i s _ hrun hlegal] at hnext
      obtain hsame | hhold | ⟨rfl, htimeout⟩ := commandRule_toSemaphore hs i
      · exact .inl (same fun _ => hsame)
      · rw [hhold] at hnext
        cases hnext
        exact .inr (.inl rfl)
      · rw [htimeout] at hnext
        cases hnext
        have hport : s.turn.port = .pb := belongsOn_producer (i := .acqwt) rfl (belongsOn_of_legalOn hlegal)
        exact .inr (.inr ⟨hport, by rw [hport]⟩)
  · exact .inl (same fun h => absurd h hlegal)

/-- The response (TIMEOUT, 0x00) (R48, R49, R73). -/
theorem responseWord_timeout : responseWord .timeout 0 = 0x0300#16 := by decide

theorem dispatch_toSemaphore (hs : s.Inv) {t : State} (hnext : dispatch s = .next t) :
    dispatch s.toSemaphore = .next t.toSemaphore ∨ t = s ∨
      (s.portPB.rsp = none ∧ t.portPB.rsp = some 0x0300#16) := by
  have hcmd : (s.toSemaphore.port s.toSemaphore.turn.port).cmd = (s.port s.turn.port).cmd :=
    congrArg PortState.cmd (State.toSemaphore_port _)
  rcases dispatch_cases s with ⟨-, hd⟩ | ⟨w, i, hw, hdec, hd⟩ | ⟨w, e, hw, hdec, hd⟩ <;> rw [hd] at hnext
  · exact .inr (.inl (Host.Outcome.next.inj hnext).symm)
  · have hd' : dispatch s.toSemaphore = exec i s.toSemaphore := by simp only [dispatch, hcmd, hw, hdec]
    rw [hd']
    obtain hsame | hstays | ⟨hport, rfl⟩ := exec_toSemaphore hs hnext
    · exact .inl hsame
    · exact .inr (.inl hstays)
    · obtain ⟨hnone | hnone, -⟩ := hs.ports_wf .pb
      · rw [hport, hnone] at hw
        cases hw
      · exact .inr (.inr ⟨hnone, congrArg some responseWord_timeout⟩)
  · have hd' : dispatch s.toSemaphore = illegalStep w s.toSemaphore := by simp only [dispatch, hcmd, hw, hdec]
    rw [hd']
    unfold illegalStep at hnext ⊢
    split at hnext <;> cases hnext
    · exact .inr (.inl rfl)
    · exact .inl (if_neg ‹_›)

/-- EMIT looks the same in the SEMAPHORE block, or has no step here. -/
theorem emitStep_toSemaphore (hs : s.Inv) {t : State} (hnext : emitStep s = .next t) :
    emitStep s.toSemaphore = .next t.toSemaphore ∨ t = s := by
  rcases emitStep_next s t hnext with ⟨-, ht⟩ | ⟨hen, bytes, sts, q, hrec, hwrite, rfl⟩
  · exact .inr ht
  · have hg := Config.queue_inRange s.cfg .a
    have hA := hs.queueA_wf
    have hheld := hs.queueA_not_held
    have hj := hA.writeSlot_lt hg
    obtain ⟨hrun, hpend, hfree⟩ := s.emitEnabled_iff.1 hen
    have hen' : s.toSemaphore.emitEnabled = true :=
      s.toSemaphore.emitEnabled_iff.2
        ⟨hrun, hpend, Queue.canAcquireWrite_toSemaphore (g := s.cfg.a) hA.arbiter_wf hg hheld hfree⟩
    have hslot : s.toSemaphore.queueA.writeSlot s.toSemaphore.cfg.a = s.queueA.writeSlot s.cfg.a :=
      Queue.toSemaphore_writeSlot (g := s.cfg.a) hg
    have hwrite' : cbWriteBlock s.toSemaphore.cfg.a (s.toSemaphore.queueA.writeSlot s.toSemaphore.cfg.a) bytes
        s.toSemaphore.queueA = .ok (sts, q.toSemaphore s.cfg.a) := by
      rw [hslot]
      exact cbWriteBlock_toSemaphore hwrite
    have happ := cbWriteBlock_appended hg hj (hj.trans_eq hA.slots_length.symm) (hA.slots_wf _ hj) hwrite
    have hlt : q.filled s.cfg.a < s.cfg.a.n := by
      simpa only [Queue.filled, happ.arbiter, happ.rHeld] using hA.arbiter_wf.filled_lt hg.one_le_n hfree
    have hover : (q.acquireWrite.releaseWrite s.cfg.a).toSemaphore s.cfg.a =
        (q.toSemaphore s.cfg.a).acquireWrite.releaseWrite s.cfg.a := by
      rw [Queue.releaseWrite_toSemaphore (hA.acquireWritten hg hheld hfree hwrite).arbiter_wf hg q.acquireWrite_wHeld,
        Queue.acquireWrite_toSemaphore (happ.wHeld.trans hheld) hlt]
    refine .inl ((emitStep_of_enabled hen' hrec hwrite').trans ?_)
    refine congrArg Host.Outcome.next ?_
    simp only [State.toSemaphore, hover]
    rfl

theorem State.toSemaphore_blockReset : s.blockReset.toSemaphore = s.toSemaphore.blockReset := by
  have ha : (Queue.reset s.cfg.a).toSemaphore s.cfg.a = Queue.reset (Config.toSemaphore s.cfg).a :=
    Queue.reset_toSemaphore (Config.queue_inRange s.cfg .a)
  have hb : (Queue.reset s.cfg.b).toSemaphore s.cfg.b = Queue.reset (Config.toSemaphore s.cfg).b :=
    Queue.reset_toSemaphore (Config.queue_inRange s.cfg .b)
  simp only [State.toSemaphore, State.blockReset, State.resetWith, ha, hb]

end BlockView

/-- Settles O33, event by event: what the SEMAPHORE block does not do as well is a hold, a SYNC step or a TIMEOUT. -/
theorem grayCdcRefinesSemaphore : Obligations.GrayCdcRefinesSemaphore := by
  intro e s t hs hnext htimeout
  cases e with
  | turn p timeout =>
    obtain hsame | rfl | hout := dispatch_toSemaphore (hs.withTurn ⟨p, timeout⟩) hnext
    · exact .inr hsame
    · exact .inl rfl
    · exact absurd hout htimeout
  | emit =>
    obtain hsame | rfl := emitStep_toSemaphore hs hnext
    · exact .inr hsame
    · exact .inl rfl
  | syncR2W x d =>
    cases hnext
    refine .inl ?_
    unfold syncR2WStep
    split
    · rfl
    · rw [State.toSemaphore_setQueue, Queue.syncR2W_toSemaphore, ← State.toSemaphore_queue, State.setQueue_self,
        State.setQueue_turn]
      rfl
  | syncW2R x d =>
    cases hnext
    refine .inl ?_
    unfold syncW2RStep
    split
    · rfl
    · rw [State.toSemaphore_setQueue, Queue.syncW2R_toSemaphore, ← State.toSemaphore_queue, State.setQueue_self,
        State.setQueue_turn]
      rfl
  | present p w =>
    refine .inr ?_
    simp only [runEvent, presentCommand, State.toSemaphore_port] at hnext ⊢
    split at hnext
    · cases hnext
      rw [State.toSemaphore_setPort]
    · cases hnext
  | reset =>
    cases hnext
    exact .inr (congrArg Host.Outcome.next State.toSemaphore_blockReset.symm)

end Sys2Proof.Machine
end

section
/-! A queue is a FIFO of slots and each slot a FIFO of bytes (R17, R39, R40): what each move does to the contents of a queue,
and from that the commands of queue B and queue A. -/

namespace Sys2Proof.Machine

/-! ## The contents of a queue, move by move -/

section Contents

variable {g : QueueParams} {q q' : Queue}

/-- The contents depend on where the filled slots are and on their bytes. -/
theorem Queue.contents_congr (hfilled : q'.filled g = q.filled g) (hread : q'.readSlot g = q.readSlot g)
    (hbytes : ∀ i < q.filled g,
      q'.slotBytes g ((q.readSlot g + i) % g.n) = q.slotBytes g ((q.readSlot g + i) % g.n)) :
    q'.contents g = q.contents g := by
  rw [Queue.contents, Queue.contents, hfilled, hread]
  exact List.map_congr_left fun i hi => hbytes i (List.mem_range.1 hi)

/-- The first filled slot, and the others. -/
theorem Queue.contents_eq_cons (hpos : 1 ≤ q.filled g) (hread : q.readSlot g < g.n) :
    q.contents g = q.slotBytes g (q.readSlot g) ::
      (List.range (q.filled g - 1)).map (fun i => q.slotBytes g ((q.readSlot g + (i + 1)) % g.n)) := by
  obtain ⟨n, hn⟩ := Nat.exists_eq_add_of_le' hpos
  rw [Queue.contents, hn, List.range_succ_eq_map, List.map_cons, List.map_map, Nat.add_zero, Nat.mod_eq_of_lt hread,
    Nat.add_sub_cancel]
  rfl

theorem Queue.acquireWrite_contents (q : Queue) : q.acquireWrite.contents g = q.contents g :=
  Queue.contents_congr Queue.acquireWrite_filled Queue.acquireWrite_readSlot fun _ _ =>
    Queue.slotBytes_congr q.acquireWrite_slots q.acquireWrite_ram g _

theorem Queue.acquireRead_contents (hheld : q.rHeld = false) (hsome : q.canAcquireRead g = true) :
    q.acquireRead.contents g = q.contents g :=
  Queue.contents_congr (Queue.acquireRead_filled hheld hsome) Queue.acquireRead_readSlot fun _ _ =>
    Queue.slotBytes_congr q.acquireRead_slots q.acquireRead_ram g _

namespace Queue.Wf

/-- A released write slot becomes the last filled slot (R69, R85). -/
theorem releaseWrite_contents (h : q.Wf g) (hg : g.InRange) (hheld : q.wHeld = true) :
    (q.releaseWrite g).contents g = q.contents g ++ [q.slotBytes g (q.writeSlot g)] := by
  have hbytes (j : Nat) := Queue.slotBytes_congr (q.releaseWrite_slots g) (q.releaseWrite_ram g) g j
  rw [Queue.contents, h.arbiter_wf.releaseWrite_filled hg hheld, List.range_succ, List.map_append,
    h.arbiter_wf.writeSlot_eq hg.one_le_n]
  simp only [Queue.releaseWrite_readSlot, hbytes, List.map_cons, List.map_nil, Queue.contents]

/-- A change of the write slot, which is not filled yet, does not show in the contents. -/
theorem contents_of_writeSlot (h : q.Wf g) (hg : g.InRange) (hlt : q.filled g < g.n) (harb : q'.arbiter = q.arbiter)
    (hr : q'.rHeld = q.rHeld) (hslot : ∀ k, k ≠ q.writeSlot g → q'.slot k = q.slot k)
    (hread : ∀ a, ¬ (q.writeSlot g * g.cap ≤ a ∧ a < (q.writeSlot g + 1) * g.cap) → q'.ram.read a = q.ram.read a) :
    q'.contents g = q.contents g := by
  refine Queue.contents_congr (by simp only [Queue.filled, harb, hr]) (by simp only [Queue.readSlot, harb])
    fun i hi => ?_
  have hne : (q.readSlot g + i) % g.n ≠ q.writeSlot g := by
    rw [h.arbiter_wf.writeSlot_eq hg.one_le_n]
    intro heq
    have := ring_inj (hi.trans hlt) hlt heq
    omega
  exact Queue.slotBytes_of_other_region hg.one_le_cap hne (hslot _ hne) hread

theorem filled_lt_of_wHeld (h : q.Wf g) (hg : g.InRange) (hheld : q.wHeld = true) : q.filled g < g.n := by
  have hle := h.arbiter_wf.filled_add_wHeld_le hg.one_le_n
  rw [hheld, Bool.toNat_true] at hle
  omega

theorem filled_pos_of_rHeld (h : q.Wf g) (hg : g.InRange) (hheld : q.rHeld = true) : 1 ≤ q.filled g := by
  simpa [hheld] using h.arbiter_wf.rHeld_le_filled hg.one_le_n

/-- A recycled read slot was the first filled slot (R76, R85). -/
theorem releaseRead_contents (h : q.Wf g) (hg : g.InRange) (hheld : q.rHeld = true) :
    q.contents g = q.slotBytes g (q.readSlot g) :: (q.releaseRead g).contents g := by
  have hpos := h.filled_pos_of_rHeld hg hheld
  have hle := h.arbiter_wf.filled_add_wHeld_le hg.one_le_n
  have hj := h.readSlot_lt hg
  have hfilled := h.releaseRead_filled hg hheld
  have hnext : (q.releaseRead g).readSlot g = (q.readSlot g + 1) % g.n := Queue.freeReadSlot_readSlot hg
  have hslots : (q.releaseRead g).slots = (q.setSlot (q.readSlot g) Slot.empty).slots := q.releaseRead_slots g
  rw [Queue.contents_eq_cons hpos hj, Queue.contents, ← hfilled, Nat.add_sub_cancel, hnext]
  refine congrArg (q.slotBytes g (q.readSlot g) :: ·) (List.map_congr_left fun i hi => ?_)
  have hi := List.mem_range.1 hi
  have hne : (q.readSlot g + (i + 1)) % g.n ≠ q.readSlot g := add_mod_ne_self hj (by omega) (by omega)
  rw [Nat.mod_add_mod, Nat.add_assoc, Nat.add_comm 1 i]
  refine (Queue.slotBytes_of_other_region hg.one_le_cap hne ?_ fun a ha => ?_).symm
  · rw [Queue.slot_congr hslots, Queue.setSlot_slot_other _ _ _ _ hne]
  · rw [Queue.releaseRead_read, if_neg (by rwa [← Nat.succ_mul])]

/-- The byte removed was the first of the first filled slot (R63, R77). -/
theorem pop_contents (h : q.Wf g) (hg : g.InRange) (hheld : q.rHeld = true)
    (hcnt : (q.slot (q.readSlot g)).cnt.toNat ≠ 0) :
    ∃ bytes rest,
      q.contents g = (q.ram.read (q.byteAddr g (q.readSlot g) 0) :: bytes) :: rest ∧
        (q.pop g (q.readSlot g)).contents g = bytes :: rest := by
  have hpos := h.filled_pos_of_rHeld hg hheld
  have hle := h.arbiter_wf.filled_add_wHeld_le hg.one_le_n
  have hj := h.readSlot_lt hg
  have hpop : (q.pop g (q.readSlot g)).contents g = _ := Queue.contents_eq_cons (q := q.pop g (q.readSlot g)) hpos hj
  refine ⟨_, _, ?_, hpop⟩
  rw [Queue.contents_eq_cons hpos hj,
    Queue.slotBytes_eq_cons_pop hg.one_le_cap hg.cap_le (hj.trans_eq h.slots_length.symm) hcnt]
  refine congrArg₂ List.cons rfl (List.map_congr_left fun i hi => ?_)
  have hi := List.mem_range.1 hi
  have hne : (q.readSlot g + (i + 1)) % g.n ≠ q.readSlot g := add_mod_ne_self hj (by omega) (by omega)
  exact (Queue.slotBytes_of_other_region hg.one_le_cap hne (Queue.pop_slot_other hne) fun _ _ => rfl).symm

/-- A hand-over by EMIT appends what was written as the last filled slot (R100). -/
theorem handOver_contents {bytes : List Byte} {sts : List Status} (h : q.Wf g) (hg : g.InRange) (hheld : q.wHeld = false)
    (hfree : q.canAcquireWrite g = true) (hfit : bytes.length ≤ g.cap)
    (hrun : cbWriteBlock g (q.writeSlot g) bytes q = .ok (sts, q')) :
    (q'.acquireWrite.releaseWrite g).contents g = q.contents g ++ [bytes.map some] := by
  have hj := h.writeSlot_lt hg
  obtain ⟨sts', q'', hrun', happ, hbytes, -⟩ := cbWriteBlock_of_empty hg.one_le_cap hg.cap_le hj
    (hj.trans_eq h.slots_length.symm) (h.writeSlot_empty hg.one_le_n hheld hfree) hfit
  cases hrun'.symm.trans hrun
  have hslot : q'.writeSlot g = q.writeSlot g := by simp only [Queue.writeSlot, happ.arbiter]
  have hold : q'.contents g = q.contents g :=
    h.contents_of_writeSlot hg (h.arbiter_wf.filled_lt hg.one_le_n hfree) happ.arbiter happ.rHeld happ.other_slots
      happ.other_bytes
  rw [(h.acquireWritten hg hheld hfree hrun).releaseWrite_contents hg q'.acquireWrite_wHeld,
    Queue.acquireWrite_contents, hold, Queue.acquireWrite_writeSlot, hslot,
    Queue.slotBytes_congr q'.acquireWrite_slots q'.acquireWrite_ram, hbytes]

end Queue.Wf

end Contents

/-! ## The commands of a consumer port in a good state -/

section Consumer

variable {s : State} {p : Port} {x : QueueId} (hrun : s.halted = false) (hport : s.turn.port = p) (hc : ConsumerPort p x)

include hrun hport hc

/-- RELR without a held read slot faults, under either arbiter (R76, R85). -/
theorem exec_relr_of_not_held (hheld : (s.queue x).rHeld = false) :
    exec .relr s = .next { s with fault := if p = .ca then 0xA005#16 else 0xC005#16, fcmd := 0x9000#16 } := by
  have hword : faultWord p .relrNotHeld = if p = .ca then 0xA005#16 else 0xC005#16 := by
    obtain ⟨rfl, -⟩ | ⟨rfl, -⟩ := hc <;> decide
  have hcmd : encode .relr = 0x9000#16 := by decide
  have hrule : commandRule .relr s = .raise .relrNotHeld := by
    simp [commandRule, State.consumed, hport, hc.queueOf_eq, hheld]
  rw [exec_eq_command, hrule, command_on_raise hrun hport (hc.legalOn _ (by decide)), hword, hcmd]

/-- RELR answers (OK, 0x00) and recycles the read slot, under either arbiter (R76, R85). -/
theorem exec_relr_of_held (hheld : (s.queue x).rHeld = true) :
    exec .relr s =
      .next ((s.setQueue x ((s.queue x).releaseRead (s.cfg.queue x))).setPort p { cmd := none, rsp := some 0x0000#16 }) := by
  have hrule : commandRule .relr s = .respond .ok 0 (s.setQueue x ((s.queue x).releaseRead (s.cfg.queue x))) := by
    simp [commandRule, State.consumed, hport, hc.queueOf_eq, hheld]
  rw [exec_eq_command, hrule, command_on_respond hrun hport (hc.legalOn _ (by decide)), responseWord_ok]
  rfl

/-- RELR drops the first filled slot (R39, R76). -/
theorem exec_relr_contents {t : State} (hs : s.Inv) (hheld : (s.queue x).rHeld = true) (hnext : exec .relr s = .next t) :
    ∃ first, (s.queue x).contents (s.cfg.queue x) = first :: (t.queue x).contents (s.cfg.queue x) := by
  cases (exec_relr_of_held hrun hport hc hheld).symm.trans hnext
  rw [State.setPort_queue, State.setQueue_queue]
  exact ⟨_, (hs.queue_wf x).releaseRead_contents (Config.queue_inRange s.cfg x) hheld⟩

/-- REMB takes the first byte of the first filled slot, or answers EMPTY (R40, R77). -/
theorem exec_remb_contents {t : State} (hs : s.Inv) (hheld : (s.queue x).rHeld = true) (hnext : exec .remb s = .next t) :
    (∃ rest, (s.queue x).contents (s.cfg.queue x) = [] :: rest ∧
        (t.queue x).contents (s.cfg.queue x) = (s.queue x).contents (s.cfg.queue x) ∧
        (t.port p).rsp = some 0x0200#16) ∨
      ∃ b bytes rest, (s.queue x).contents (s.cfg.queue x) = (some b :: bytes) :: rest ∧
        (t.queue x).contents (s.cfg.queue x) = bytes :: rest ∧ (t.port p).rsp = some (0x00#8 ++ b) := by
  have hlegal : legalOn s.cfg.timedAcquire p .remb = true := hc.legalOn _ (by decide)
  have hg := Config.queue_inRange s.cfg x
  have hx := hs.queue_wf x
  have hj := hx.readSlot_lt hg
  rw [exec_remb] at hnext
  by_cases hempty : ((s.queue x).slot ((s.queue x).readSlot (s.cfg.queue x))).cnt.toNat = 0
  · have hremove := cbRemoveByte_of_empty (g := s.cfg.queue x) hempty
    cases (readAccess_same_queue hrun hport hlegal hc hheld hremove).symm.trans hnext
    have hnone : (s.queue x).slotBytes (s.cfg.queue x) ((s.queue x).readSlot (s.cfg.queue x)) = [] :=
      List.length_eq_zero_iff.1 ((Queue.slotBytes_length _ _ _).trans hempty)
    have hfirst := Queue.contents_eq_cons (hx.filled_pos_of_rHeld hg hheld) hj
    rw [hnone] at hfirst
    exact .inl ⟨_, hfirst, by rw [State.setPort_queue], by rw [State.setPort_port, responseWord_empty]⟩
  · obtain ⟨b, hb⟩ := hx.storage.oldest_byte hj hempty
    have hremove := cbRemoveByte_of_pos hj (hx.slots_wf _ hj) hempty hb
    cases (readAccess_of_held hrun hport hlegal hc hheld hremove).symm.trans hnext
    obtain ⟨bytes, rest, hold, hnew⟩ := hx.pop_contents hg hheld hempty
    rw [hb] at hold
    refine .inr ⟨b, bytes, rest, hold, ?_, by rw [State.setPort_port, responseWord_ok]⟩
    rw [State.setPort_queue, State.setQueue_queue]
    exact hnew

/-- ACQR moves nothing (R39, R75). -/
theorem exec_acqr_contents {t : State} (hheld : (s.queue x).rHeld = false) (hnext : exec .acqr s = .next t) :
    (t.queue x).contents (s.cfg.queue x) = (s.queue x).contents (s.cfg.queue x) := by
  cases hsome : (s.queue x).canAcquireRead (s.cfg.queue x) with
  | false =>
    cases (exec_acqr_of_unavailable hrun hport hc hheld hsome).symm.trans hnext
    rfl
  | true =>
    cases (exec_acqr_of_available hrun hport hc hheld hsome).symm.trans hnext
    rw [State.setPort_queue, State.setQueue_queue]
    exact Queue.acquireRead_contents hheld hsome

end Consumer

/-! ## The commands of the producer port in a good state -/

section Producer

variable {s : State} (hrun : s.halted = false) (hport : s.turn.port = .pb)

include hrun hport

/-- ACQW answers (OK, 0x00) and acquires an available slot, under either arbiter (R68, R84). -/
theorem exec_acqw_of_available (hheld : s.queueB.wHeld = false) (hfree : s.queueB.canAcquireWrite s.cfg.b = true) :
    exec .acqw s =
      .next { s with queueB := s.queueB.acquireWrite, portPB := { cmd := none, rsp := some 0x0000#16 } } := by
  have hlegal : legalOn s.cfg.timedAcquire .pb .acqw = true := legalOn_of_absent _ rfl
  rw [exec_acqw, acquireWriteSlot_of_available _ hheld hfree, command_pb_respond hrun hport hlegal, responseWord_ok]
  rfl

/-- ADDB on a held slot is CB_AddByte (R62, R70). -/
theorem exec_addb_of_held {b : Byte} {r : Reply} (hheld : s.queueB.wHeld = true)
    (hr : cbAddByte s.cfg.b (s.queueB.writeSlot s.cfg.b) b s.queueB = .ok r) :
    exec (.addb b) s =
      .next { s with queueB := r.q, portPB := { cmd := none, rsp := some (responseWord r.st r.value) } } := by
  rw [exec_addb]
  exact writeAccess_of_held hrun hport (legalOn_of_absent _ rfl) (cbAddByte · · b) hheld hr

theorem exec_acqw_contents {t : State} (hheld : s.queueB.wHeld = false) (hnext : exec .acqw s = .next t) :
    t.queueB.contents s.cfg.b = s.queueB.contents s.cfg.b := by
  cases hfree : s.queueB.canAcquireWrite s.cfg.b with
  | false =>
    cases (exec_acqw_of_unavailable hrun hport hheld hfree).symm.trans hnext
    rfl
  | true =>
    cases (exec_acqw_of_available hrun hport hheld hfree).symm.trans hnext
    exact Queue.acquireWrite_contents _

/-- ADDB leaves the filled slots, and appends to the write slot unless it is full (R40, R70). -/
theorem exec_addb_contents {b : Byte} {t : State} (hs : s.Inv) (hheld : s.queueB.wHeld = true)
    (hnext : exec (.addb b) s = .next t) :
    t.queueB.contents s.cfg.b = s.queueB.contents s.cfg.b ∧
      ((s.queueB.slot (s.queueB.writeSlot s.cfg.b)).cnt.toNat < s.cfg.b.cap →
        t.queueB.slotBytes s.cfg.b (t.queueB.writeSlot s.cfg.b) =
          s.queueB.slotBytes s.cfg.b (s.queueB.writeSlot s.cfg.b) ++ [some b]) := by
  have hg := Config.queue_inRange s.cfg .b
  have hB := hs.queueB_wf
  have hj := hB.writeSlot_lt hg
  have hwf := hB.slots_wf _ hj
  obtain hfull | hlt := hwf.1.eq_or_lt
  · cases (exec_addb_of_held hrun hport hheld (cbAddByte_of_full b hfull)).symm.trans hnext
    exact ⟨rfl, fun hlt => absurd hfull hlt.ne⟩
  · cases (exec_addb_of_held hrun hport hheld (cbAddByte_of_lt b hj hwf hlt)).symm.trans hnext
    have happ := Queue.appended_push b hg.cap_le (hj.trans_eq hB.slots_length.symm) hwf hlt
    exact ⟨hB.contents_of_writeSlot hg (hB.filled_lt_of_wHeld hg hheld) happ.arbiter happ.rHeld happ.other_slots
      happ.other_bytes, fun _ => happ.slotBytes⟩

end Producer

/-! ## The obligations -/

/-- Settles O50, command by command. -/
theorem queueBIsAFifoOfSlots : Obligations.QueueBIsAFifoOfSlots := by
  intro s t hs hrun g q q'
  have hc : ConsumerPort .cb .b := .inr ⟨rfl, rfl⟩
  refine ⟨fun hport hheld hnext => ?relw, fun b hport hheld hnext => ?addb, fun hport hheld hnext => ?relr,
    fun hport hheld hnext => ?remb, fun hport hheld hnext => ?acqw, fun hport hheld hnext => ?acqr⟩
  case relw =>
    cases (exec_relw_of_held hrun hport hheld).symm.trans hnext
    exact hs.queueB_wf.releaseWrite_contents (Config.queue_inRange s.cfg .b) hheld
  case addb => exact exec_addb_contents hrun hport hs hheld hnext
  case relr => exact exec_relr_contents hrun hport hc hs hheld hnext
  case remb => exact exec_remb_contents hrun hport hc hs hheld hnext
  case acqw => exact exec_acqw_contents hrun hport hheld hnext
  case acqr => exact exec_acqr_contents hrun hport hc hheld hnext

/-- PBYTE touches no queue (R41, R90). -/
theorem exec_pbyte_queueA {s t : State} {b : Byte} (hs : s.Inv) (hrun : s.halted = false) (hport : s.turn.port = .i)
    (hnext : exec (.pbyte b) s = .next t) : t.queueA = s.queueA := by
  cases hpend : s.parser.pend with
  | true =>
    cases (exec_pbyte_of_pending hrun hport hpend).symm.trans hnext
    rfl
  | false =>
    obtain ⟨p, hp⟩ := hs.parser_wf.input_ok b
    cases (exec_pbyte_of_input hrun hport hpend hp).symm.trans hnext
    rfl

/-- EMIT has no step, or appends the record of the pending frame as the last filled slot (R39, R100). -/
theorem emitStep_contents {s t : State} (hs : s.Inv) (hpend : s.parser.pend = true) (hnext : emitStep s = .next t) :
    (t.parser.pend = true ∧ t.queueA = s.queueA) ∨
      (t.parser.pend = false ∧ ∃ bytes, record s.parser.pendLen s.parser.data = .ok bytes ∧
        t.queueA.contents s.cfg.a = s.queueA.contents s.cfg.a ++ [bytes.map some]) := by
  rcases emitStep_next s t hnext with ⟨-, rfl⟩ | ⟨hen, bytes, sts, q, hrec, hwrite, rfl⟩
  · exact .inl ⟨hpend, rfl⟩
  · obtain ⟨-, -, hfree⟩ := s.emitEnabled_iff.1 hen
    obtain ⟨bytes', hrec', hlen⟩ := hs.parser_wf.record_ok hpend
    cases hrec'.symm.trans hrec
    exact .inr ⟨rfl, bytes, hrec, hs.queueA_wf.handOver_contents (Config.queue_inRange s.cfg .a) hs.queueA_not_held hfree
      (hlen.trans (Config.queueA_capacity s.cfg)) hwrite⟩

/-- Settles O59, event by event. -/
theorem queueAIsAFifoOfRecords : Obligations.QueueAIsAFifoOfRecords := by
  intro s t hs hrun g q q'
  have hc : ConsumerPort .ca .a := .inl ⟨rfl, rfl⟩
  exact ⟨emitStep_contents hs, fun b hport => exec_pbyte_queueA hs hrun hport,
    fun hport => exec_relr_contents hrun hport hc hs, fun hport => exec_remb_contents hrun hport hc hs,
    fun hport => exec_acqr_contents hrun hport hc⟩

end Sys2Proof.Machine
end

section
/-! CB_ReadBlock (R66): what it returns and what it leaves, and the round trip with CB_WriteBlock. -/

namespace Sys2Proof.Machine

/-! ## CB_ReadBlock -/

/-- `q'` is `q` with the oldest `n` bytes of slot `j` gone (R14 kept), the arbiter and the held bits as they were. -/
structure Queue.Removed (g : QueueParams) (j n : Nat) (q q' : Queue) : Prop where
  slots_length : q'.slots.length = q.slots.length
  slot_wf : (q'.slot j).Wf g.cap
  slotBytes : q'.slotBytes g j = (q.slotBytes g j).drop n
  arbiter : q'.arbiter = q.arbiter
  wHeld : q'.wHeld = q.wHeld
  rHeld : q'.rHeld = q.rHeld

theorem Queue.Removed.of_empty {g : QueueParams} {j : Nat} {q : Queue} (h : (q.slot j).Wf g.cap)
    (hempty : q.slotBytes g j = []) (n : Nat) : Queue.Removed g j n q q where
  slots_length := rfl
  slot_wf := h
  slotBytes := by rw [hempty, List.drop_nil]
  arbiter := rfl
  wHeld := rfl
  rHeld := rfl

theorem Queue.removed_pop {g : QueueParams} {j : Nat} {q : Queue} (hone : 1 ≤ g.cap) (hcap : g.cap ≤ 65535)
    (hslot : j < q.slots.length) (hwf : (q.slot j).Wf g.cap) (hpos : (q.slot j).cnt.toNat ≠ 0) :
    Queue.Removed g j 1 q (q.pop g j) where
  slots_length := Queue.pop_slots_length g q j
  slot_wf := by
    rw [Queue.pop_slot hslot]
    exact hwf.popped hone hcap hpos
  slotBytes := by
    rw [Queue.slotBytes_eq_cons_pop hone hcap hslot hpos]
    rfl
  arbiter := rfl
  wHeld := rfl
  rHeld := rfl

theorem Queue.Removed.trans {g : QueueParams} {j m n : Nat} {q q' q'' : Queue} (h : Queue.Removed g j m q q')
    (h' : Queue.Removed g j n q' q'') : Queue.Removed g j (m + n) q q'' where
  slots_length := h'.slots_length.trans h.slots_length
  slot_wf := h'.slot_wf
  slotBytes := by rw [h'.slotBytes, h.slotBytes, List.drop_drop]
  arbiter := h'.arbiter.trans h.arbiter
  wHeld := h'.wHeld.trans h.wHeld
  rHeld := h'.rHeld.trans h.rHeld

/-- CB_ReadBlock makes its first call, then the others (R66). -/
theorem cbReadBlock_succ {g : QueueParams} {j n : Nat} {q q' : Queue} {r : Reply} {bytes : List Byte}
    (hr : cbRemoveByte g j q = .ok r) (hrest : cbReadBlock g j n r.q = .ok (bytes, q')) :
    cbReadBlock g j (n + 1) q = .ok (if r.st = .ok then r.value :: bytes else bytes, q') := by
  simp [cbReadBlock, hr, hrest]

/-- On an empty slot every call answers EMPTY: no byte is returned and the queue stays. -/
theorem cbReadBlock_of_empty {g : QueueParams} {j : Nat} {q : Queue} (hempty : (q.slot j).cnt.toNat = 0) (n : Nat) :
    cbReadBlock g j n q = .ok ([], q) := by
  induction n with
  | zero => rfl
  | succ n ih => exact cbReadBlock_succ (cbRemoveByte_of_empty hempty) ih

/-- CB_ReadBlock of `n` bytes gives the oldest `n` bytes of a slot whose bytes are written, or all of them (R66). -/
theorem cbReadBlock_reads {g : QueueParams} {j : Nat} (hone : 1 ≤ g.cap) (hcap : g.cap ≤ 65535) (hj : j < g.n) (n : Nat)
    {q : Queue} (hslot : j < q.slots.length) (hwf : (q.slot j).Wf g.cap) (hwritten : ∀ v ∈ q.slotBytes g j, v.isSome = true) :
    ∃ bytes q', cbReadBlock g j n q = .ok (bytes, q') ∧ bytes.map some = (q.slotBytes g j).take n ∧
      Queue.Removed g j n q q' := by
  induction n generalizing q with
  | zero => exact ⟨[], q, rfl, rfl, rfl, hwf, rfl, rfl, rfl, rfl⟩
  | succ n ih =>
    by_cases hempty : (q.slot j).cnt.toNat = 0
    · have hnone : q.slotBytes g j = [] := List.length_eq_zero_iff.1 ((Queue.slotBytes_length _ _ _).trans hempty)
      exact ⟨[], q, cbReadBlock_of_empty hempty _, by rw [hnone]; rfl, .of_empty hwf hnone _⟩
    · have hcons := Queue.slotBytes_eq_cons_pop hone hcap hslot hempty
      obtain ⟨b, hb⟩ : ∃ b, q.ram.read (q.byteAddr g j 0) = some b :=
        Option.isSome_iff_exists.1 (hwritten _ (hcons ▸ List.mem_cons_self))
      have hpop := Queue.removed_pop hone hcap hslot hwf hempty
      obtain ⟨bytes, q', hrun, hbytes, hrem⟩ := ih (hslot.trans_eq hpop.slots_length.symm) hpop.slot_wf fun v hv =>
        hwritten v (hcons ▸ List.mem_cons_of_mem _ hv)
      refine ⟨b :: bytes, q', cbReadBlock_succ (cbRemoveByte_of_pos hj hwf hempty hb) hrun, ?_, ?_⟩
      · rw [hcons, hb, List.map_cons, hbytes, List.take_succ_cons]
      · exact Nat.add_comm 1 n ▸ hpop.trans hrem

/-- The round trip of R66: as many bytes as fit, written into an empty slot, are read back, and the slot is empty again. -/
theorem cbReadBlock_of_cbWriteBlock {g : QueueParams} {j : Nat} {q : Queue} (hone : 1 ≤ g.cap) (hcap : g.cap ≤ 65535)
    (hj : j < g.n) (hslot : j < q.slots.length) (hwf : (q.slot j).Wf g.cap) (hempty : (q.slot j).cnt.toNat = 0)
    {bytes : List Byte} (hfit : bytes.length ≤ g.cap) :
    ∃ sts q1 q2, cbWriteBlock g j bytes q = .ok (sts, q1) ∧ cbReadBlock g j bytes.length q1 = .ok (bytes, q2) ∧
      (q2.slot j).cnt.toNat = 0 := by
  have hnone : q.slotBytes g j = [] := List.length_eq_zero_iff.1 ((Queue.slotBytes_length _ _ _).trans hempty)
  obtain ⟨q1, hwrite, happ⟩ := cbWriteBlock_appends (room := g.cap) hcap hj bytes hslot hwf (by omega)
  rw [List.take_of_length_le hfit] at happ
  have hbytes : q1.slotBytes g j = bytes.map some := by rw [happ.slotBytes, hnone, List.nil_append]
  obtain ⟨bytes', q2, hread, hbytes', hrem⟩ := cbReadBlock_reads hone hcap hj bytes.length
    (hslot.trans_eq happ.slots_length.symm) happ.slot_wf (by rw [hbytes]; simp)
  rw [hbytes, List.take_of_length_le (by simp), (List.map_injective_iff.2 (Option.some_injective Byte)).eq_iff] at hbytes'
  refine ⟨_, q1, q2, hwrite, hbytes' ▸ hread, ?_⟩
  rw [← Queue.slotBytes_length g, hrem.slotBytes, hbytes, List.drop_of_length_le (by simp), List.length_nil]

/-- Settles O52. -/
theorem readBlockReturnsWhatWasWritten : Obligations.ReadBlockReturnsWhatWasWritten := by
  intro g q j hone hcap hj hslot hwf
  refine ⟨fun hwritten n => ?_, fun hempty bytes hfit => ?_⟩
  · obtain ⟨bytes, q', hread, hbytes, hrem⟩ :=
      cbReadBlock_reads hone hcap hj n hslot hwf (Queue.slotBytes_written_iff.2 hwritten)
    refine ⟨bytes, q', hread, ?_, hbytes, hrem.slotBytes⟩
    rw [← List.length_map (f := some), hbytes, List.length_take, Queue.slotBytes_length]
  · have hcnt : (q.slot j).cnt.toNat = 0 := congrArg BitVec.toNat hempty
    obtain ⟨sts, q1, q2, hwrite, hread, hdone⟩ := cbReadBlock_of_cbWriteBlock hone hcap hj hslot hwf hcnt hfit
    exact ⟨sts, q1, q2, hwrite, hread, BitVec.eq_of_toNat_eq hdone⟩

end Sys2Proof.Machine
end

section
/-! The assembler's WBLK and RBLK carried out without a step in between (R56, R57), the frame of ADDB (R70), and the commands
that only look at a slot (R42). -/

namespace Sys2Proof.Machine

/-! ## A command presented and given its turn at once -/

/-- The state in which the turn of port `p` meets the command `i`, presented just before. -/
def State.presented (s : State) (p : Port) (i : Instr) : State :=
  { s.setPort p { cmd := some (encode i), rsp := none } with turn := { port := p, timeout := false } }

@[simp] theorem State.presented_cfg (s : State) (p : Port) (i : Instr) : (s.presented p i).cfg = s.cfg :=
  State.setPort_cfg s p _

@[simp] theorem State.presented_halted (s : State) (p : Port) (i : Instr) : (s.presented p i).halted = s.halted :=
  State.setPort_halted s p _

@[simp] theorem State.presented_turn_port (s : State) (p : Port) (i : Instr) : (s.presented p i).turn.port = p := rfl

@[simp] theorem State.presented_queueB (s : State) (p : Port) (i : Instr) : (s.presented p i).queueB = s.queueB :=
  State.setPort_queueB s p _

@[simp] theorem State.presented_queue (s : State) (p : Port) (i : Instr) (x : QueueId) :
    (s.presented p i).queue x = s.queue x := by
  cases x
  · exact State.setPort_queueA s p _
  · exact State.setPort_queueB s p _

theorem dispatch_decoded {s : State} {w : Word} {i : Instr} (hcmd : (s.port s.turn.port).cmd = some w)
    (hdec : decode w = .ok i) : dispatch s = exec i s := by
  simp only [dispatch, hcmd, hdec]

theorem dispatch_presented (s : State) (p : Port) (i : Instr) : dispatch (s.presented p i) = exec i (s.presented p i) :=
  have hport : (s.presented p i).port p = { cmd := some (encode i), rsp := none } := State.setPort_port s p _
  dispatch_decoded (congrArg PortState.cmd hport) (decode_encode i)

/-- The schedule of a line: each command is presented and then has its turn (R55 to R57). -/
def presentEach (p : Port) (is : List Instr) : List Event :=
  is.flatMap fun i => [.present p (encode i), .turn p false]

theorem Line.events_eq (l : Line) : Line.events l = presentEach l.port (Op.expand l.op) := by
  rw [Line.events, Line.words, List.flatMap_map, presentEach]

section PresentEach

variable {s t : State} {p : Port} {i : Instr} (is : List Instr) (hfree : (s.port p).cmd = none)
  (hexec : exec i (s.presented p i) = .next t)

include hfree

theorem runEvent_present (w : Word) : runEvent (.present p w) s = .next (s.setPort p { cmd := some w, rsp := none }) := by
  simp [runEvent, presentCommand, hfree]

include hexec

omit hfree in
theorem runEvent_turn_presented :
    runEvent (.turn p false) (s.setPort p { cmd := some (encode i), rsp := none }) = .next t :=
  (dispatch_presented s p i).trans hexec

theorem runEvents_presentEach_cons :
    runEvents (presentEach p (i :: is)) s = runEvents (presentEach p is) t := by
  simp only [presentEach, List.flatMap_cons, List.cons_append, List.nil_append, runEvents, runEvent_present hfree,
    runEvent_turn_presented hexec]

theorem completions_presentEach_cons :
    completions p (presentEach p (i :: is)) s = (t.port p).rsp.toList ++ completions p (presentEach p is) t := by
  simp [presentEach, completions, runEvent_present hfree, runEvent_turn_presented hexec]

end PresentEach

/-! ## WBLK -/

/-- ADDB after ADDB is CB_WriteBlock on the held write slot (R56, R65). -/
theorem runEvents_addbs {s : State} {bytes : List Byte} {sts : List Status} {q' : Queue} (hrun : s.halted = false)
    (hheld : s.queueB.wHeld = true) (hfree : s.portPB.cmd = none)
    (hwrite : cbWriteBlock s.cfg.b (s.queueB.writeSlot s.cfg.b) bytes s.queueB = .ok (sts, q')) :
    ∃ t, runEvents (presentEach .pb (bytes.map .addb)) s = .next t ∧ t.queueB = q' ∧ t.halted = false ∧
      t.portPB.cmd = none := by
  induction bytes generalizing s sts with
  | nil =>
    obtain ⟨-, rfl⟩ : [] = sts ∧ s.queueB = q' := by simpa [cbWriteBlock] using hwrite
    exact ⟨s, rfl, rfl, hrun, hfree⟩
  | cons b rest ih =>
    obtain ⟨r, sts', hb, hrest⟩ := cbWriteBlock_cons_ok hwrite
    obtain ⟨harb, hw, -⟩ := cbAddByte_control hb
    have hexec := exec_addb_of_held (s := s.presented .pb (.addb b)) (by simpa using hrun) rfl (by simpa using hheld)
      (by simpa using hb)
    rw [List.map_cons, runEvents_presentEach_cons (p := .pb) _ hfree hexec]
    have hslot : r.q.writeSlot s.cfg.b = s.queueB.writeSlot s.cfg.b := by simp only [Queue.writeSlot, harb]
    exact ih hrun (hw.trans hheld) rfl (hslot.symm ▸ hrest)

/-- Settles O53: the expansion byte by byte, and CB_WriteBlock for the net effect. -/
theorem wblkAppendsWhatFits : Obligations.WblkAppendsWhatFits := by
  intro s bytes hs hrun hheld hfree line j
  have hg := Config.queue_inRange s.cfg .b
  have hB := hs.queueB_wf
  have hj := hB.writeSlot_lt hg
  refine ⟨?_, ?_⟩
  · simp [line, Line.words, Op.expand, encode_addb]
  · obtain ⟨q', hwrite, happ⟩ := cbWriteBlock_appends hg.cap_le hj bytes (hj.trans_eq hB.slots_length.symm)
      (hB.slots_wf _ hj) (Nat.add_sub_of_le (hB.slots_wf _ hj).1)
    obtain ⟨t, hevents, rfl, hrun', hfree'⟩ := runEvents_addbs hrun hheld hfree hwrite
    refine ⟨t, (Line.events_eq line).symm ▸ hevents, ?_, hrun', happ.wHeld.trans hheld, ?_, hfree'⟩
    · rw [Nat.min_comm, ← List.take_eq_take_min]
      exact happ.slotBytes
    · simp only [j, Queue.writeSlot, happ.arbiter]

/-! ## RBLK -/

theorem okBytes_responseWord_cons (st : Status) (b : Byte) (rs : List Word) :
    okBytes (responseWord st b :: rs) = if st = .ok then b :: okBytes rs else okBytes rs := by
  have hdata : (responseWord st b).extractLsb' 0 8 = b := by
    refine BitVec.eq_of_getLsbD_eq fun k hk => ?_
    rw [BitVec.getLsbD_extractLsb', getLsbD_responseWord]
    simp [hk]
  have hst : (responseWord st b).extractLsb' 8 2 = st.code := by
    refine BitVec.eq_of_getLsbD_eq fun k hk => ?_
    rw [BitVec.getLsbD_extractLsb', getLsbD_responseWord]
    simp [hk, show 8 + k < 10 by omega]
  have hok : st.code = 0 ↔ st = .ok := by cases st <;> decide
  by_cases h : st = .ok
  · rw [if_pos h, okBytes, List.filter_cons_of_pos (by simpa [hst] using hok.2 h), List.map_cons, hdata, okBytes]
  · rw [if_neg h, okBytes, List.filter_cons_of_neg (by simpa [hst] using mt hok.1 h), okBytes]

theorem cbReadBlock_succ_ok {g : QueueParams} {j n : Nat} {q q' : Queue} {bytes : List Byte}
    (h : cbReadBlock g j (n + 1) q = .ok (bytes, q')) :
    ∃ r bytes', cbRemoveByte g j q = .ok r ∧ cbReadBlock g j n r.q = .ok (bytes', q') ∧
      bytes = if r.st = .ok then r.value :: bytes' else bytes' := by
  cases hr : cbRemoveByte g j q with
  | error f => simp [cbReadBlock, hr] at h
  | ok r =>
    cases hrest : cbReadBlock g j n r.q with
    | error f => simp [cbReadBlock, hr, hrest] at h
    | ok out =>
      obtain ⟨bytes', q''⟩ := out
      cases (cbReadBlock_succ hr hrest).symm.trans h
      exact ⟨r, bytes', rfl, hrest, rfl⟩

/-- REMB after REMB is CB_ReadBlock on the held read slot (R57, R66). -/
theorem runEvents_rembs {s : State} {p : Port} {x : QueueId} {n : Nat} {bytes : List Byte} {q' : Queue}
    (hc : ConsumerPort p x) (hrun : s.halted = false) (hheld : (s.queue x).rHeld = true) (hfree : (s.port p).cmd = none)
    (hread : cbReadBlock (s.cfg.queue x) ((s.queue x).readSlot (s.cfg.queue x)) n (s.queue x) = .ok (bytes, q')) :
    ∃ t, runEvents (presentEach p (List.replicate n .remb)) s = .next t ∧
      okBytes (completions p (presentEach p (List.replicate n .remb)) s) = bytes ∧ t.queue x = q' ∧
      t.halted = false ∧ (t.port p).cmd = none := by
  induction n generalizing s bytes with
  | zero =>
    obtain ⟨rfl, rfl⟩ : [] = bytes ∧ s.queue x = q' := by simpa [cbReadBlock] using hread
    exact ⟨s, rfl, rfl, rfl, hrun, hfree⟩
  | succ n ih =>
    obtain ⟨r, bytes', hr, hrest, rfl⟩ := cbReadBlock_succ_ok hread
    obtain ⟨harb, -, hheld'⟩ := cbRemoveByte_control hr
    have hexec : exec .remb (s.presented p .remb) = .next (((s.presented p .remb).setQueue x r.q).setPort p
        { cmd := none, rsp := some (responseWord r.st r.value) }) :=
      readAccess_of_held (by simpa using hrun) rfl (hc.legalOn _ (by decide)) hc (by simpa using hheld)
        (by simpa using hr)
    have hslot : r.q.readSlot (s.cfg.queue x) = (s.queue x).readSlot (s.cfg.queue x) := by
      simp only [Queue.readSlot, harb]
    obtain ⟨t, hevents, hbytes, hq, hrun', hfree'⟩ := ih
      (s := ((s.presented p .remb).setQueue x r.q).setPort p { cmd := none, rsp := some (responseWord r.st r.value) })
      (by simpa using hrun) (by simpa using hheld'.trans hheld) (by simp) (by simpa [hslot] using hrest)
    rw [List.replicate_succ]
    refine ⟨t, (runEvents_presentEach_cons _ hfree hexec).trans hevents, ?_, hq, hrun', hfree'⟩
    rw [completions_presentEach_cons _ hfree hexec, State.setPort_port, Option.toList_some, List.singleton_append,
      okBytes_responseWord_cons, hbytes]

/-- Settles O54: the expansion, and CB_ReadBlock for the net effect. -/
theorem rblkReturnsTheOldestBytes : Obligations.RblkReturnsTheOldestBytes := by
  intro s p x n hs hrun hc hheld hfree line g j
  have hg := Config.queue_inRange s.cfg x
  have hx := hs.queue_wf x
  have hj := hx.readSlot_lt hg
  have hencode : encode .remb = 0xA000#16 := by decide
  refine ⟨?_, ?_⟩
  · simp [line, Line.words, Op.expand, hencode]
  · obtain ⟨bytes, q', hread, hbytes, hrem⟩ := cbReadBlock_reads hg.one_le_cap hg.cap_le hj n
      (hj.trans_eq hx.slots_length.symm) (hx.slots_wf _ hj) (hx.storage.written _ hj)
    obtain ⟨t, hevents, rfl, rfl, hrun', hfree'⟩ := runEvents_rembs hc hrun hheld hfree hread
    rw [Line.events_eq line]
    refine ⟨t, hevents, hbytes, hrem.slotBytes, hrun', hrem.rHeld.trans hheld, ?_, hfree'⟩
    simp only [j, g, Queue.readSlot, hrem.arbiter]

/-! ## The frame of ADDB, and the commands that only look -/

theorem exec_addb_next {s t : State} {b : Byte} (hrun : s.halted = false) (hport : s.turn.port = .pb)
    (hheld : s.queueB.wHeld = true) (hnext : exec (.addb b) s = .next t) :
    ∃ r, cbAddByte s.cfg.b (s.queueB.writeSlot s.cfg.b) b s.queueB = .ok r ∧
      t = { s with queueB := r.q, portPB := { cmd := none, rsp := some (responseWord r.st r.value) } } := by
  cases hr : cbAddByte s.cfg.b (s.queueB.writeSlot s.cfg.b) b s.queueB with
  | ok r => exact ⟨r, rfl, (Host.Outcome.next.inj ((exec_addb_of_held hrun hport hheld hr).symm.trans hnext)).symm⟩
  | error f =>
    have hstop : exec (.addb b) s = .fault f := by
      rw [exec_addb, writeAccess, if_pos hheld, hr]
      exact command_pb hrun hport (legalOn_of_absent _ rfl) (.stop f)
    cases hstop.symm.trans hnext

/-- Settles O18: the one write of CB_AddByte, and the one slot it moves on. -/
theorem addbStoresOnlyAtTheWriteCursor : Obligations.AddbStoresOnlyAtTheWriteCursor := by
  rintro s t b hrun hport hheld hroom hnext a rfl
  obtain ⟨r, hr, rfl⟩ := exec_addb_next hrun hport hheld hnext
  obtain ⟨hfull, -⟩ | ⟨-, -, rfl⟩ := cbAddByte_ok _ _ _ _ _ hr
  · exact absurd hfull hroom
  · exact ⟨Memory.read_write_same _ _ _, fun k hk => Memory.read_write_other _ _ _ _ hk, fun _ => rfl, fun _ => rfl,
      fun k hk => Queue.setSlot_slot_other { s.queueB with ram := _ } _ k _ hk, rfl, hheld, rfl, rfl, rfl, rfl, rfl⟩

theorem writeRule_respond_of_look {s u : State} {op : QueueParams → Nat → Queue → Except Fault Reply} {st : Status}
    {d : Byte} (hop : ∀ g j q r, op g j q = .ok r → r.q = q) (h : writeRule s op = .respond st d u) : u = s := by
  obtain ⟨-, r, hr, -, -, rfl⟩ := writeRule_respond h
  rw [hop _ _ _ _ hr]

theorem readRule_respond_of_look {x : QueueId} {s u : State} {op : QueueParams → Nat → Queue → Except Fault Reply}
    {st : Status} {d : Byte} (hop : ∀ g j q r, op g j q = .ok r → r.q = q) (h : readRule x s op = .respond st d u) :
    u = s := by
  obtain ⟨-, r, hr, -, -, rfl⟩ := readRule_respond h
  rw [hop _ _ _ _ hr, State.setQueue_self]

/-- The five commands answer without a write of their own (R60, R61, R64). -/
theorem commandRule_respond_of_look {i : Instr} {s u : State} {st : Status} {d : Byte}
    (hi : i ∈ [.peek, .wfull, .wempty, .rfull, .rempty]) (h : commandRule i s = .respond st d u) : u = s := by
  have predicate (f : QueueParams → Nat → Queue → Reply) (hf : ∀ g j q, (f g j q).q = q) :
      ∀ g j q r, Except.ok (ε := Fault) (f g j q) = .ok r → r.q = q := by
    rintro g j q r ⟨⟩
    exact hf g j q
  simp only [List.mem_cons, List.not_mem_nil, or_false] at hi
  obtain rfl | rfl | rfl | rfl | rfl := hi <;> simp only [commandRule] at h
  · exact readRule_respond_of_look (fun _ _ _ _ => cbPeekByte_q) h
  · exact writeRule_respond_of_look (predicate cbIsFull fun _ _ _ => rfl) h
  · exact writeRule_respond_of_look (predicate (fun _ => cbIsEmpty) fun _ _ _ => rfl) h
  · exact readRule_respond_of_look (predicate cbIsFull fun _ _ _ => rfl) h
  · exact readRule_respond_of_look (predicate (fun _ => cbIsEmpty) fun _ _ _ => rfl) h

/-- Settles O56: a rule that writes nothing leaves the answer or the raise. -/
theorem predicatesAndPeekChangeNoState : Obligations.PredicatesAndPeekChangeNoState := by
  intro i s t hi hnext
  rw [exec_eq_command] at hnext
  obtain ⟨-, rfl⟩ | ⟨-, -, rfl⟩ | ⟨-, -, hconclude⟩ := command_next i s t _ hnext
  · exact .inl rfl
  · exact .inr (.inl rfl)
  · obtain ⟨st, d, u, hrule, rfl⟩ | ⟨-, rfl⟩ | ⟨c, -, rfl⟩ := conclude_next i s t _ hconclude
    · exact .inr (.inr ⟨_, by rw [commandRule_respond_of_look hi hrule]; rfl⟩)
    · exact .inl rfl
    · exact .inr (.inl rfl)

end Sys2Proof.Machine
end

section
/-! The length byte (R96), which bytes emit (R102), the checksum law of a whole frame attempt (R99), and the records of frames
(R101). -/

namespace Sys2Proof.Machine

/-! ## One byte -/

/-- Settles O37, from the two cases of R96. -/
theorem pbyteInAwaitLength : Obligations.PbyteInAwaitLength := by
  intro s b hrun hport hpend hst
  refine ⟨fun hb => ?_, fun hb => ?_⟩
  · exact exec_pbyte_of_input hrun hport hpend (Parser.input_length hst (by omega))
  · exact exec_pbyte_of_input hrun hport hpend (Parser.input_badSize hst (by omega))

theorem exec_pbyte_next {s t : State} {b : Byte} (hrun : s.halted = false) (hport : s.turn.port = .i)
    (hpend : s.parser.pend = false) (hnext : exec (.pbyte b) s = .next t) : s.parser.input b = .ok t.parser := by
  cases hin : s.parser.input b with
  | ok p =>
    cases (exec_pbyte_of_input hrun hport hpend hin).symm.trans hnext
    rfl
  | error f =>
    have hstop : exec (.pbyte b) s = .fault f := by
      rw [exec_pbyte, execPbyte, if_neg (by simp [hpend]), hin]
      exact command_on hrun hport (legalOn_of_absent _ rfl) (.stop f)
    cases hstop.symm.trans hnext

/-- A byte that the parser takes in with no frame pending leaves one pending in five cases (R102). -/
theorem Parser.input_pend_iff {p t : Parser} {b : Byte} (hpend : p.pend = false) (hin : p.input b = .ok t) :
    t.pend = true ↔
      (p.st = .awaitPreamble1 ∧ b ≠ 0x03) ∨ (p.st = .awaitPreamble2 ∧ b ≠ 0xAF) ∨
      (p.st = .awaitPreamble3 ∧ b ≠ 0xEF) ∨ (p.st = .awaitLength ∧ b.toNat ≤ 5) ∨
      (p.st = .collectPayload ∧ p.idx.toNat + 1 + 5 = p.plen.toNat) := by
  cases hst : p.st with
  | awaitPreamble1 =>
    by_cases hb : b = 0x03
    · subst hb
      cases (Parser.input_start (.inl hst)).symm.trans hin
      simp [hpend]
    · cases (Parser.input_badPreamble1 hst hb).symm.trans hin
      exact iff_of_true rfl (.inl ⟨rfl, hb⟩)
  | awaitPreamble2 =>
    by_cases hb : b = 0xAF
    · subst hb
      cases (Parser.input_preamble2 hst).symm.trans hin
      simp [hpend]
    · cases (Parser.input_badPreamble2 hst hb).symm.trans hin
      exact iff_of_true rfl (.inr (.inl ⟨rfl, hb⟩))
  | awaitPreamble3 =>
    by_cases hb : b = 0xEF
    · subst hb
      cases (Parser.input_preamble3 hst).symm.trans hin
      simp [hpend]
    · cases (Parser.input_badPreamble3 hst hb).symm.trans hin
      exact iff_of_true rfl (.inr (.inr (.inl ⟨rfl, hb⟩)))
  | awaitCommand =>
    cases (Parser.input_command hst).symm.trans hin
    simp [hpend]
  | awaitLength =>
    by_cases hb : 6 ≤ b.toNat
    · cases (Parser.input_length hst hb).symm.trans hin
      simp [hpend, show ¬ b.toNat ≤ 5 by omega]
    · cases (Parser.input_badSize hst hb).symm.trans hin
      simp [show b.toNat ≤ 5 by omega]
  | collectPayload =>
    rw [Parser.input, hst] at hin
    obtain ⟨-, -, -, -, -, ⟨hmore, -, hkept, -⟩ | ⟨hlast, -, hset, -⟩⟩ := inputCollectPayload_ok b p t hin
    · simpa [hkept, hpend, headerSize] using hmore
    · simpa [hset, headerSize] using hlast
  | errorRecovery =>
    by_cases hb : b = 0x03
    · subst hb
      cases (Parser.input_start (.inr hst)).symm.trans hin
      simp [hpend]
    · cases (Parser.input_noise hst hb).symm.trans hin
      simp [hpend]

/-- Settles O41, by the state of the parser. -/
theorem whichBytesEmit : Obligations.WhichBytesEmit :=
  fun _ _ _ hrun hport hpend hnext => Parser.input_pend_iff hpend (exec_pbyte_next hrun hport hpend hnext)

/-! ## A whole frame attempt -/

/-- `t` is what `p`, which is collecting, has become after the rest of the payload: the attempt is over, a frame is pending
as the checksum says, and the payload stands behind what was collected before (R97, R99). -/
structure Parser.Completed (p : Parser) (payload : List Byte) (t : Parser) : Prop where
  csum : t.csum = payload.foldl (fun x y => x ^^^ y) p.csum
  st : t.st = .awaitPreamble1
  pend : t.pend = true
  pendLen : t.pendLen = if t.csum = 0 then zext16 p.plen else FramingError.checksumMismatch.length
  collected : ∀ k, (hk : k < payload.length) → t.data.read (p.idx.toNat + k) = some payload[k]
  kept : ∀ k < p.idx.toNat, t.data.read k = p.data.read k

theorem Parser.completed_last (b : Byte) (p : Parser) :
    p.Completed [b] { (p.store b).emitFrame
        (if p.csum ^^^ b = 0 then zext16 p.plen else FramingError.checksumMismatch.length)
      with st := .awaitPreamble1 } where
  csum := rfl
  st := rfl
  pend := rfl
  pendLen := rfl
  collected k hk := by
    obtain rfl : k = 0 := Nat.lt_one_iff.1 hk
    exact Memory.read_write_same _ _ _
  kept k hk := Memory.read_write_other _ _ _ _ hk.ne

theorem Parser.Completed.store {p t : Parser} {b : Byte} {rest : List Byte} (h : (p.store b).Completed rest t)
    (hidx : (p.store b).idx.toNat = p.idx.toNat + 1) : p.Completed (b :: rest) t where
  csum := h.csum
  st := h.st
  pend := h.pend
  pendLen := h.pendLen
  collected k hk := by
    cases k with
    | zero =>
      rw [Nat.add_zero, h.kept _ (by omega)]
      exact Memory.read_write_same _ _ _
    | succ k =>
      have := h.collected k (Nat.lt_of_succ_lt_succ hk)
      rwa [hidx, Nat.add_assoc, Nat.add_comm 1 k] at this
  kept k hk := by
    rw [h.kept k (by omega)]
    exact Memory.read_write_other _ _ _ _ hk.ne

/-- The state after a PBYTE that made the parser `p` (R90). -/
def State.fed (s : State) (p : Parser) : State := { s with parser := p, portI := { cmd := none, rsp := some 0x0000#16 } }

theorem feedBytes_cons {s : State} {b : Byte} {p : Parser} (rest : List Byte) (hrun : s.halted = false)
    (hport : s.turn.port = .i) (hpend : s.parser.pend = false) (hin : s.parser.input b = .ok p) :
    feedBytes (b :: rest) s = feedBytes rest (s.fed p) := by
  rw [feedBytes, exec_pbyte_of_input hrun hport hpend hin, State.fed]

/-- Feeding the rest of a payload, byte by byte, ends the attempt (R97). -/
theorem feedBytes_payload {s : State} {payload : List Byte} (hrun : s.halted = false) (hport : s.turn.port = .i)
    (hpend : s.parser.pend = false) (hst : s.parser.st = .collectPayload) (hsome : payload ≠ [])
    (hlen : s.parser.idx.toNat + payload.length + headerSize = s.parser.plen.toNat) :
    ∃ t, feedBytes payload s = some t ∧ s.parser.Completed payload t.parser := by
  have hplen : s.parser.plen.toNat < 256 := s.parser.plen.isLt
  induction payload generalizing s with
  | nil => exact absurd rfl hsome
  | cons b rest ih =>
    have hidx : s.parser.idx.toNat < payloadSize := by
      simp only [List.length_cons, headerSize] at hlen
      simp only [payloadSize]
      omega
    by_cases hlast : rest = []
    · subst hlast
      rw [feedBytes_cons _ hrun hport hpend (Parser.input_lastPayload hst hidx hlen)]
      exact ⟨_, rfl, Parser.completed_last b s.parser⟩
    · have hpos : 0 < rest.length := List.length_pos_iff.2 hlast
      have hmore : s.parser.idx.toNat + 1 + headerSize ≠ s.parser.plen.toNat := by
        simp only [List.length_cons] at hlen
        omega
      have hidx' : (s.parser.store b).idx.toNat = s.parser.idx.toNat + 1 := by
        simp only [payloadSize] at hidx
        exact Nat.mod_eq_of_lt (by omega)
      rw [feedBytes_cons _ hrun hport hpend (Parser.input_payload hst hidx hmore)]
      obtain ⟨t, hfeed, hdone⟩ := ih (s := s.fed (s.parser.store b)) hrun hport hpend hst hlast (by
          rw [List.length_cons] at hlen
          change (s.parser.store b).idx.toNat + rest.length + headerSize = s.parser.plen.toNat
          omega) hplen
      exact ⟨t, hfeed, hdone.store hidx'⟩

/-- Feeding the five header bytes of an attempt brings the parser to its payload (R92 to R96). -/
theorem feedBytes_header {s : State} {command length : Byte} {payload : List Byte} (hrun : s.halted = false)
    (hport : s.turn.port = .i) (hpend : s.parser.pend = false)
    (hst : s.parser.st = .awaitPreamble1 ∨ s.parser.st = .errorRecovery) (hlength : 6 ≤ length.toNat) :
    ∃ u, feedBytes ([0x03, 0xAF, 0xEF, command, length] ++ payload) s = feedBytes payload u ∧ u.halted = false ∧
      u.turn.port = .i ∧
      u.parser = { s.parser with
        csum := [0x03, 0xAF, 0xEF, command, length].foldl (fun x y => x ^^^ y) 0, plen := length, idx := 0,
        st := .collectPayload, data := [] } := by
  refine ⟨s.fed { s.parser with
    csum := [0x03, 0xAF, 0xEF, command, length].foldl (fun x y => x ^^^ y) 0, plen := length, idx := 0,
    st := .collectPayload, data := [] }, ?_, hrun, hport, rfl⟩
  refine Eq.trans (feedBytes_cons _ hrun hport hpend (Parser.input_start hst)) ?_
  refine Eq.trans (feedBytes_cons _ hrun hport hpend (Parser.input_preamble2 rfl)) ?_
  refine Eq.trans (feedBytes_cons _ hrun hport hpend (Parser.input_preamble3 rfl)) ?_
  refine Eq.trans (feedBytes_cons _ hrun hport hpend (Parser.input_command rfl)) ?_
  exact feedBytes_cons _ hrun hport hpend (Parser.input_length rfl hlength)

/-- Settles O42: the header, then the payload. -/
theorem checksumLaw : Obligations.ChecksumLaw := by
  intro s command length payload hrun hport hpend hst hlength hpayload attempt sum
  obtain ⟨u, hheader, hrun', hport', hu⟩ :=
    feedBytes_header (command := command) (payload := payload) hrun hport hpend hst hlength
  have hidx : u.parser.idx.toNat = 0 := by rw [hu]; rfl
  obtain ⟨t, hfeed, hdone⟩ := feedBytes_payload (s := u) (payload := payload) hrun' hport' (by rw [hu]; exact hpend)
    (by rw [hu]) (List.length_pos_iff.1 (by omega)) (by
      rw [hidx, hpayload, hu]
      simp only [headerSize]
      omega)
  have hsum : t.parser.csum = sum := by
    rw [hdone.csum, hu, ← List.foldl_append]
  refine ⟨t, hheader.trans hfeed, hsum, hdone.st, hdone.pend, fun hzero => ?_, fun hne => ?_, fun k hk => ?_⟩
  · rw [hdone.pendLen, hsum, if_pos hzero, hu, zext16_eq_append]
  · rw [hdone.pendLen, hsum, if_neg hne]
    rfl
  · have := hdone.collected k hk
    rwa [hidx, Nat.zero_add] at this

/-! ## Records -/

theorem readPayload_eq {data : Memory} {payload : List Byte} {k : Nat} (hrange : k + payload.length ≤ payloadSize)
    (hread : ∀ i, (hi : i < payload.length) → data.read (k + i) = some payload[i]) :
    readPayload data k payload.length = .ok payload := by
  induction payload generalizing k with
  | nil => rfl
  | cons v rest ih =>
    rw [List.length_cons] at hrange
    have hfirst : payloadRead data k = .ok v :=
      (payloadRead_ok data k v).2 ⟨by omega, hread 0 (Nat.succ_pos _)⟩
    have hrest := ih (k := k + 1) (by omega) fun i hi => by
      rw [Nat.add_assoc, Nat.add_comm 1 i]
      exact hread (i + 1) (Nat.succ_lt_succ hi)
    simp [readPayload, hfirst, hrest]

theorem hi8_zext16 (v : Byte) : hi8 (zext16 v) = 0x00 := by
  refine BitVec.eq_of_getLsbD_eq fun k hk => ?_
  simp [hi8, zext16]

theorem lo8_zext16 (v : Byte) : lo8 (zext16 v) = v := by
  refine BitVec.eq_of_getLsbD_eq fun k hk => ?_
  simp [lo8, zext16, hk, show k < 16 by omega]

/-- The record of a success frame (R101). -/
theorem record_of_payload {data : Memory} {length : Byte} {payload : List Byte} (hlength : 6 ≤ length.toNat)
    (hpayload : payload.length = length.toNat - 5)
    (hread : ∀ k, (hk : k < payload.length) → data.read k = some payload[k]) :
    record (zext16 length) data = .ok (0x00 :: length :: payload) := by
  have hlt : length.toNat < 256 := length.isLt
  obtain ⟨hint, hnat⟩ := zext16_toInt length
  have hbytes := readPayload_eq (payload := payload) (k := 0) (by simp only [payloadSize]; omega) fun i hi => by
    rw [Nat.zero_add]
    exact hread i hi
  rw [record, if_pos (by rw [hint]; omega), hnat, headerSize, ← hpayload, hbytes, hi8_zext16, lo8_zext16]

/-- A negative length has no payload (R101). -/
theorem record_of_error {len : Word} (data : Memory) (hneg : ¬ 0 < len.toInt) : record len data = .ok [hi8 len, lo8 len] :=
  if_neg hneg

/-- Settles O43: the success frame, and the five errors with their lengths in two's complement. -/
theorem recordBytes : Obligations.RecordBytes := by
  intro data
  refine ⟨fun length payload hlength hpayload hread => ?_, record_of_error data (by decide),
    record_of_error data (by decide), record_of_error data (by decide), record_of_error data (by decide),
    record_of_error data (by decide)⟩
  rw [← zext16_eq_append]
  exact record_of_payload hlength hpayload hread

end Sys2Proof.Machine
end

section
/-! What one side of a queue sees of the other side's release (R129): at once under SEMAPHORE, after a step of the
synchroniser under GRAY_CDC; and the views of R82 beside the counters of the SEMAPHORE queue of the same history (R87). -/

namespace Sys2Proof.Machine

/-! ## Copies brought up to date -/

/-- The draw of the whole lag brings a copy to its pointer (R86). -/
theorem Sync.copy_moved_lag (c : Sync) {g : QueueParams} {p : GrayPointers} {w r : Bool} (h : p.Wf g w r)
    (hg : g.InRange) : c.copy (c.moved g p (c.lag g p)) = c.source p := by
  obtain ⟨hsource, hcopy⟩ := c.lt_of_wf h
  rw [Sync.copy_moved]
  obtain ⟨-, hle, hmoved⟩ | ⟨hnone, hstays⟩ := syncPointer_cases g (c.source p) (c.copy p) (c.lag g p)
  · rw [hmoved]
    refine eq_of_pointerDistance_eq_zero hg.one_le_n hsource (pointerAdvance_lt hg _ _) ?_
    rw [pointerDistance_advance_right hg hle, Sync.lag, Nat.sub_self]
  · have hzero : pointerDistance g (c.source p) (c.copy p) = 0 := by
      simp only [Sync.lag] at hnone
      omega
    rw [hstays]
    exact eq_of_pointerDistance_eq_zero hg.one_le_n hsource hcopy hzero

section Views

variable {g : QueueParams} {q : Queue} {p : GrayPointers}

/-- An up to date consumer sees every filled slot (R82, R84). -/
theorem Queue.canAcquireRead_syncW2R (h : q.ArbiterWf g) (hg : g.InRange) (harb : q.arbiter = .grayCdc p)
    (hsome : q.filled g ≠ 0) : (q.syncW2R g (Sync.lag .w2r g p)).canAcquireRead g = true := by
  rw [Queue.arbiterWf_grayCdc harb] at h
  have hcopy : syncPointer g p.wPtr p.wPtrSyncR (Sync.lag .w2r g p) = p.wPtr := Sync.copy_moved_lag .w2r h.2 hg
  rw [Queue.filled_grayCdc harb] at hsome
  rw [Queue.syncW2R_grayCdc harb, hcopy]
  exact decide_eq_true hsome

/-- An up to date producer sees every free slot (R82, R84). -/
theorem Queue.canAcquireWrite_syncR2W (h : q.ArbiterWf g) (hg : g.InRange) (harb : q.arbiter = .grayCdc p)
    (hfree : q.filled g < g.n) : (q.syncR2W g (Sync.lag .r2w g p)).canAcquireWrite g = true := by
  rw [Queue.arbiterWf_grayCdc harb] at h
  have hcopy : syncPointer g p.rPtr p.rPtrSyncW (Sync.lag .r2w g p) = p.rPtr := Sync.copy_moved_lag .r2w h.2 hg
  rw [Queue.filled_grayCdc harb] at hfree
  rw [Queue.syncR2W_grayCdc harb, hcopy]
  exact decide_eq_true hfree

theorem Queue.canAcquireRead_of_not_seen (hn : 1 ≤ g.n) (harb : q.arbiter = .grayCdc p) (h : p.wPtrSyncR = p.rPtr) :
    q.canAcquireRead g = false := by
  simp [Queue.canAcquireRead, harb, GrayPointers.filledSeenByConsumer, h, pointerDistance_self _ hn]

/-- The consumer of a SEMAPHORE queue sees every filled slot (R17, R75). -/
theorem Queue.canAcquireRead_of_semaphore {c : Semaphores} (harb : q.arbiter = .semaphore c) (hheld : q.rHeld = false)
    (hsome : q.filled g ≠ 0) : q.canAcquireRead g = true := by
  rw [Queue.filled_semaphore harb, hheld, Bool.toNat_false, Nat.add_zero] at hsome
  simpa [Queue.canAcquireRead, harb] using Nat.pos_of_ne_zero hsome

/-- The producer of a SEMAPHORE queue sees every free slot (R16, R17, R68). -/
theorem Queue.canAcquireWrite_of_semaphore {c : Semaphores} (h : q.ArbiterWf g) (harb : q.arbiter = .semaphore c)
    (hheld : q.wHeld = false) (hfree : q.filled g < g.n) : q.canAcquireWrite g = true := by
  rw [Queue.filled_semaphore harb] at hfree
  rw [Queue.arbiterWf_semaphore harb, hheld] at h
  obtain ⟨-, -, -, hsum, -⟩ := h
  have hpos : 0 < c.semW.toNat := by
    rw [Bool.toNat_false] at hsum
    omega
  simpa [Queue.canAcquireWrite, harb] using hpos

theorem Queue.releaseRead_semaphore {c : Semaphores} (harb : q.arbiter = .semaphore c) :
    (q.releaseRead g).arbiter = .semaphore { c with rIdx := nextIndex g c.rIdx, semW := c.semW + 1 } :=
  congrArg Queue.arbiter (Queue.freeReadSlot_semaphore (q := cbReset g (q.readSlot g) q) harb g)

theorem Queue.releaseRead_grayCdc (harb : q.arbiter = .grayCdc p) :
    (q.releaseRead g).arbiter = .grayCdc { p with rPtr := pointerAdvance g p.rPtr 1 } :=
  congrArg Queue.arbiter (Queue.freeReadSlot_grayCdc (q := cbReset g (q.readSlot g) q) harb g)

/-- The producer of a GRAY_CDC queue does not see a release by itself (R82, R85). -/
theorem Queue.canAcquireWrite_releaseRead (harb : q.arbiter = .grayCdc p) :
    (q.releaseRead g).canAcquireWrite g = q.canAcquireWrite g := by
  rw [Queue.canAcquireWrite, Queue.releaseRead_grayCdc harb, Queue.canAcquireWrite, harb]
  rfl

theorem Queue.canAcquireWrite_of_full (hn : 1 ≤ g.n) (harb : q.arbiter = .grayCdc p)
    (hfull : (g.n : Int) ≤ ((p.wPtr.toNat : Int) - (p.rPtrSyncW.toNat : Int)) % (2 * (g.n : Int))) :
    q.canAcquireWrite g = false := by
  rw [Bool.eq_false_iff, ne_eq, Queue.canAcquireWrite_grayCdc hn harb]
  exact hfull.not_gt

end Views

/-! ## ACQR after a release of the producer -/

theorem runEvent_syncW2R {s : State} (hrun : s.halted = false) (x : QueueId) (d : Nat) :
    runEvent (.syncW2R x d) s = .next (s.setQueue x ((s.queue x).syncW2R (s.cfg.queue x) d)) := by
  simp [runEvent, syncW2RStep, hrun]

theorem runEvent_syncR2W {s : State} (hrun : s.halted = false) (x : QueueId) (d : Nat) :
    runEvent (.syncR2W x d) s = .next (s.setQueue x ((s.queue x).syncR2W (s.cfg.queue x) d)) := by
  simp [runEvent, syncR2WStep, hrun]

section Consumer

variable {s : State} {p : Port} {x : QueueId} (hrun : s.halted = false) (hport : s.turn.port = p) (hc : ConsumerPort p x)
  (hheld : (s.queue x).rHeld = false)

include hrun hport hc hheld

theorem exec_acqr_completes (hsome : (s.queue x).canAcquireRead (s.cfg.queue x) = true) :
    ∃ u, exec .acqr s = .next u ∧ (u.queue x).rHeld = true ∧ (u.port p).rsp = some 0x0000#16 :=
  ⟨_, exec_acqr_of_available hrun hport hc hheld hsome, by simp, by simp⟩

theorem exec_acqr_of_semaphore {c : Semaphores} (harb : (s.queue x).arbiter = .semaphore c)
    (hsome : (s.queue x).filled (s.cfg.queue x) ≠ 0) :
    ∃ u, exec .acqr s = .next u ∧ (u.queue x).rHeld = true ∧ (u.port p).rsp = some 0x0000#16 :=
  exec_acqr_completes hrun hport hc hheld (Queue.canAcquireRead_of_semaphore harb hheld hsome)

/-- A consumer that has seen nothing holds, and completes once SyncW2R has run (R84, R129). -/
theorem exec_acqr_of_sync {g : GrayPointers} (harb : (s.queue x).arbiter = .grayCdc g)
    (hwf : (s.queue x).ArbiterWf (s.cfg.queue x)) (hunseen : g.wPtrSyncR = g.rPtr)
    (hsome : (s.queue x).filled (s.cfg.queue x) ≠ 0) :
    ∃ u v d, exec .acqr s = .next s ∧ runEvent (.syncW2R x d) s = .next u ∧ exec .acqr u = .next v ∧
      (v.queue x).rHeld = true ∧ (v.port p).rsp = some 0x0000#16 := by
  have hg := Config.queue_inRange s.cfg x
  have hsync := Queue.canAcquireRead_syncW2R hwf hg harb hsome
  obtain ⟨v, hexec, hv⟩ := exec_acqr_completes
    (s := s.setQueue x ((s.queue x).syncW2R (s.cfg.queue x) (Sync.lag .w2r (s.cfg.queue x) g)))
    (by simpa using hrun) (by simpa using hport) hc (by simpa using hheld) (by simpa using hsync)
  exact ⟨_, v, _, exec_acqr_of_unavailable hrun hport hc hheld (Queue.canAcquireRead_of_not_seen hg.one_le_n harb hunseen),
    runEvent_syncW2R hrun x _, hexec, hv⟩

end Consumer

/-- Settles O31: after RELW one more slot is filled. -/
theorem relwBecomesVisibleToAcqr : Obligations.RelwBecomesVisibleToAcqr := by
  have hc : ConsumerPort .cb .b := .inr ⟨rfl, rfl⟩
  have released {s : State} (hs : s.Inv) (hw : s.queueB.wHeld = true) :
      (s.queueB.releaseWrite s.cfg.b).ArbiterWf s.cfg.b ∧ (s.queueB.releaseWrite s.cfg.b).filled s.cfg.b ≠ 0 :=
    have hg := Config.queue_inRange s.cfg .b
    ⟨hs.queueB_wf.arbiter_wf.releaseWrite hg hw,
      (hs.queueB_wf.arbiter_wf.releaseWrite_filled hg hw).trans_ne (Nat.succ_ne_zero _)⟩
  refine ⟨fun s c hs hrun hport harb hw hr => ?_, fun s g hs hrun hport harb hw hr hunseen => ?_⟩ <;>
    obtain ⟨hwf, hsome⟩ := released hs hw
  · obtain ⟨u, hu⟩ := exec_acqr_of_semaphore (s := { s with
        queueB := s.queueB.releaseWrite s.cfg.b, portPB := { cmd := none, rsp := some 0x0000#16 },
        turn := { port := .cb, timeout := false } })
      hrun rfl hc ((Queue.releaseWrite_rHeld _ _).trans hr) (congrArg Queue.arbiter (Queue.releaseWrite_semaphore _ harb))
      hsome
    exact ⟨_, u, exec_relw_of_held hrun hport hw, hu⟩
  · obtain ⟨u, v, d, hu⟩ := exec_acqr_of_sync (s := { s with
        queueB := s.queueB.releaseWrite s.cfg.b, portPB := { cmd := none, rsp := some 0x0000#16 },
        turn := { port := .cb, timeout := false } })
      hrun rfl hc ((Queue.releaseWrite_rHeld _ _).trans hr) (congrArg Queue.arbiter (Queue.releaseWrite_grayCdc harb _))
      hwf hunseen hsome
    exact ⟨_, u, v, d, exec_relw_of_held hrun hport hw, hu⟩

/-! ## ACQW and EMIT after a release of the consumer -/

/-- A recycled read slot leaves fewer than N filled slots (R16, R76, R85). -/
theorem Queue.Wf.releaseRead_filled_lt {g : QueueParams} {q : Queue} (h : q.Wf g) (hg : g.InRange) (hheld : q.rHeld = true) :
    (q.releaseRead g).filled g < g.n := by
  have hfilled := h.releaseRead_filled hg hheld
  have hle := h.arbiter_wf.filled_add_wHeld_le hg.one_le_n
  omega

/-- A producer that sees all slots filled holds, and completes once SyncR2W has run (R84, R129). -/
theorem exec_acqw_of_sync {s : State} {g : GrayPointers} (hrun : s.halted = false) (hport : s.turn.port = .pb)
    (hheld : s.queueB.wHeld = false) (harb : s.queueB.arbiter = .grayCdc g) (hwf : s.queueB.ArbiterWf s.cfg.b)
    (hunseen : s.queueB.canAcquireWrite s.cfg.b = false) (hfree : s.queueB.filled s.cfg.b < s.cfg.b.n) :
    ∃ u v d, exec .acqw s = .next s ∧ runEvent (.syncR2W .b d) s = .next u ∧ exec .acqw u = .next v ∧
      v.queueB.wHeld = true ∧ v.portPB.rsp = some 0x0000#16 := by
  have hg := Config.queue_inRange s.cfg .b
  have hsync := Queue.canAcquireWrite_syncR2W hwf hg harb hfree
  have hexec := exec_acqw_of_available (s := { s with queueB := s.queueB.syncR2W s.cfg.b (Sync.lag .r2w s.cfg.b g) })
    hrun hport ((Queue.syncR2W_wHeld _ _ _).trans hheld) hsync
  exact ⟨_, _, _, exec_acqw_of_unavailable hrun hport hheld hunseen, runEvent_syncR2W hrun .b _, hexec,
    Queue.acquireWrite_wHeld _, rfl⟩

/-- Settles O57: after RELR one slot is free, and no pointer that the producer sees has moved. -/
theorem relrBecomesVisibleToAcqw : Obligations.RelrBecomesVisibleToAcqw := by
  have hc : ConsumerPort .cb .b := .inr ⟨rfl, rfl⟩
  have recycled {s : State} (hs : s.Inv) (hr : s.queueB.rHeld = true) :
      (s.queueB.releaseRead s.cfg.b).ArbiterWf s.cfg.b ∧ (s.queueB.releaseRead s.cfg.b).filled s.cfg.b < s.cfg.b.n :=
    have hg := Config.queue_inRange s.cfg .b
    ⟨(hs.queueB_wf.releaseRead hg hr).arbiter_wf, hs.queueB_wf.releaseRead_filled_lt hg hr⟩
  refine ⟨fun s c hs hrun hport harb hr hw => ?_, fun s g hs hrun hport harb hr hw hfull => ?_⟩ <;>
    obtain ⟨hwf, hfree⟩ := recycled hs hr
  · have hw' : (s.queueB.releaseRead s.cfg.b).wHeld = false := (Queue.releaseRead_wHeld _ _).trans hw
    have hexec := exec_acqw_of_available (s := { s with
        queueB := s.queueB.releaseRead s.cfg.b, portCB := { cmd := none, rsp := some 0x0000#16 },
        turn := { port := .pb, timeout := false } })
      hrun rfl hw' (Queue.canAcquireWrite_of_semaphore hwf (Queue.releaseRead_semaphore harb) hw' hfree)
    exact ⟨_, _, exec_relr_of_held hrun hport hc hr, hexec, Queue.acquireWrite_wHeld _, rfl⟩
  · have hn : 1 ≤ s.cfg.b.n := (Config.queue_inRange s.cfg .b).one_le_n
    obtain ⟨u, v, d, hu⟩ := exec_acqw_of_sync (s := { s with
        queueB := s.queueB.releaseRead s.cfg.b, portCB := { cmd := none, rsp := some 0x0000#16 },
        turn := { port := .pb, timeout := false } })
      hrun rfl ((Queue.releaseRead_wHeld _ _).trans hw) (Queue.releaseRead_grayCdc harb) hwf
      ((Queue.canAcquireWrite_releaseRead harb).trans (Queue.canAcquireWrite_of_full hn harb hfull.ge)) hfree
    exact ⟨_, u, v, d, exec_relr_of_held hrun hport hc hr, hu⟩

/-- EMIT, where it is enabled, writes the record and hands the slot over (R100). -/
theorem emitStep_hands_over {s : State} (hparser : s.parser.Wf) (hA : s.queueA.Wf s.cfg.a) (hen : s.emitEnabled = true) :
    ∃ bytes sts q, cbWriteBlock s.cfg.a (s.queueA.writeSlot s.cfg.a) bytes s.queueA = .ok (sts, q) ∧
      emitStep s = .next { s with
        queueA := q.acquireWrite.releaseWrite s.cfg.a, parser := { s.parser with pend := false } } := by
  have hg := Config.queue_inRange s.cfg .a
  have hj := hA.writeSlot_lt hg
  have hwf := hA.slots_wf _ hj
  obtain ⟨-, hpend, -⟩ := s.emitEnabled_iff.1 hen
  obtain ⟨bytes, hrec, -⟩ := hparser.record_ok hpend
  obtain ⟨q, hwrite, -⟩ := cbWriteBlock_appends hg.cap_le hj bytes (hj.trans_eq hA.slots_length.symm) hwf
    (Nat.add_sub_of_le hwf.1)
  exact ⟨bytes, _, q, hwrite, emitStep_of_enabled hen hrec hwrite⟩

theorem emitStep_completes {s : State} (hparser : s.parser.Wf) (hA : s.queueA.Wf s.cfg.a) (hrun : s.halted = false)
    (hpend : s.parser.pend = true) (hfree : s.queueA.canAcquireWrite s.cfg.a = true) :
    ∃ t, runEvent .emit s = .next t ∧ t.parser.pend = false := by
  obtain ⟨_, _, _, _, hemit⟩ := emitStep_hands_over hparser hA (s.emitEnabled_iff.2 ⟨hrun, hpend, hfree⟩)
  exact ⟨_, hemit, rfl⟩

/-- After EMIT queue A has one more filled slot, the consumer's pointers and held bit as before (R100). -/
theorem emitStep_queueA {s : State} (hs : s.Inv) (hrun : s.halted = false) (hpend : s.parser.pend = true)
    (hfree : s.queueA.canAcquireWrite s.cfg.a = true) :
    ∃ q, runEvent .emit s = .next { s with queueA := q, parser := { s.parser with pend := false } } ∧
      q.ArbiterWf s.cfg.a ∧ q.filled s.cfg.a ≠ 0 ∧ q.rHeld = s.queueA.rHeld ∧
      q.arbiter = (s.queueA.acquireWrite.releaseWrite s.cfg.a).arbiter := by
  have hg := Config.queue_inRange s.cfg .a
  have hA := hs.queueA_wf
  have hj := hA.writeSlot_lt hg
  obtain ⟨bytes, sts, q, hwrite, hemit⟩ := emitStep_hands_over hs.parser_wf hA (s.emitEnabled_iff.2 ⟨hrun, hpend, hfree⟩)
  have happ := cbWriteBlock_appended hg hj (hj.trans_eq hA.slots_length.symm) (hA.slots_wf _ hj) hwrite
  have harb : (q.acquireWrite.releaseWrite s.cfg.a).arbiter = (s.queueA.acquireWrite.releaseWrite s.cfg.a).arbiter := by
    cases ha : s.queueA.arbiter with
    | semaphore c =>
      rw [Queue.handOver_semaphore _ ha, Queue.handOver_semaphore _ (happ.arbiter.trans ha)]
    | grayCdc p => rw [Queue.handOver_grayCdc _ ha, Queue.handOver_grayCdc _ (happ.arbiter.trans ha)]
  exact ⟨_, hemit, (hA.handOver hg hs.queueA_not_held hfree hwrite).arbiter_wf,
    (hA.handOver_filled hg hs.queueA_not_held hfree hwrite).trans_ne (Nat.succ_ne_zero _), by simp [happ.rHeld], harb⟩

/-- Settles O58: EMIT makes one more filled slot, RELR one more free slot, of queue A. -/
theorem releasesOnQueueABecomeVisible : Obligations.ReleasesOnQueueABecomeVisible := by
  have hc : ConsumerPort .ca .a := .inl ⟨rfl, rfl⟩
  refine ⟨fun s c hs hrun harb hpend => ⟨fun hfree hr => ?_, fun hport hr => ?_⟩,
    fun s g hs hrun harb hpend => ⟨fun hfree hr hunseen => ?_, fun hfull hport hr => ?_⟩⟩
  · obtain ⟨q, hemit, -, hsome, hr', harb'⟩ :=
      emitStep_queueA hs hrun hpend ((Queue.canAcquireWrite_semaphore _ harb).2 hfree)
    obtain ⟨u, hu⟩ := exec_acqr_of_semaphore (s := { s with
        queueA := q, parser := { s.parser with pend := false }, turn := { port := .ca, timeout := false } })
      hrun rfl hc (hr'.trans hr) (harb'.trans (Queue.handOver_semaphore _ harb)) hsome
    exact ⟨_, u, hemit, hu⟩
  · have hg := Config.queue_inRange s.cfg .a
    have hA := hs.queueA_wf.releaseRead hg hr
    obtain ⟨u, hu⟩ := emitStep_completes (s := { s with
        queueA := s.queueA.releaseRead s.cfg.a, portCA := { cmd := none, rsp := some 0x0000#16 } })
      hs.parser_wf hA hrun hpend (Queue.canAcquireWrite_of_semaphore hA.arbiter_wf (Queue.releaseRead_semaphore harb)
        ((Queue.releaseRead_wHeld _ _).trans hs.queueA_not_held) (hs.queueA_wf.releaseRead_filled_lt hg hr))
    exact ⟨_, u, exec_relr_of_held hrun hport hc hr, hu⟩
  · have hn : 1 ≤ s.cfg.a.n := (Config.queue_inRange s.cfg .a).one_le_n
    obtain ⟨q, hemit, hwf, hsome, hr', harb'⟩ :=
      emitStep_queueA hs hrun hpend ((Queue.canAcquireWrite_grayCdc hn harb).2 hfree)
    obtain ⟨u, v, d, hu⟩ := exec_acqr_of_sync (s := { s with
        queueA := q, parser := { s.parser with pend := false }, turn := { port := .ca, timeout := false } })
      hrun rfl hc (hr'.trans hr) (harb'.trans (Queue.handOver_grayCdc _ harb)) hwf hunseen hsome
    exact ⟨_, u, v, d, hemit, hu⟩
  · have hg : QueueParams.InRange s.cfg.a := Config.queue_inRange s.cfg .a
    have hA := hs.queueA_wf.releaseRead hg hr
    have harb' := Queue.releaseRead_grayCdc (g := s.cfg.a) harb
    have hunseen : (s.queueA.releaseRead s.cfg.a).canAcquireWrite s.cfg.a = false :=
      (Queue.canAcquireWrite_releaseRead harb).trans (Queue.canAcquireWrite_of_full hg.one_le_n harb hfull.ge)
    let t : State := { s with
      queueA := s.queueA.releaseRead s.cfg.a, portCA := { cmd := none, rsp := some 0x0000#16 } }
    have hheld : emitStep t = .next t :=
      emitStep_of_disabled (Bool.eq_false_iff.2 fun hen => by
        obtain ⟨-, -, hfree⟩ := t.emitEnabled_iff.1 hen
        exact absurd (hunseen.symm.trans hfree) Bool.false_ne_true)
    obtain ⟨v, hv⟩ := emitStep_completes
      (s := { t with queueA := t.queueA.syncR2W s.cfg.a (Sync.lag .r2w s.cfg.a _) })
      hs.parser_wf (hA.syncR2W hg _) hrun hpend
      (Queue.canAcquireWrite_syncR2W hA.arbiter_wf hg harb' (hs.queueA_wf.releaseRead_filled_lt hg hr))
    exact ⟨t, _, v, _, exec_relr_of_held hrun hport hc hr, hheld, runEvent_syncR2W (s := t) hrun .a _, hv⟩

/-! ## The views beside the counters -/

section ViewBounds

variable {g : QueueParams} {p : GrayPointers} {w r : Bool} (h : p.Wf g w r) (hg : g.InRange)

include h hg

theorem GrayPointers.Wf.views_ordered :
    p.filledSeenByConsumer g ≤ pointerDistance g p.wPtr p.rPtr ∧
      pointerDistance g p.wPtr p.rPtr ≤ p.filledSeenByProducer g ∧ p.filledSeenByProducer g + w.toNat ≤ g.n := by
  have hn := hg.one_le_n
  refine ⟨?_, h.filled_le_filledSeenByProducer hn, ?_⟩
  · rw [h.pointerDistance_eq hn]
    exact Nat.le_add_left _ _
  · rw [h.filledSeenByProducer_eq hn]
    exact h.2.1

/-- The producer's view lies between 0 and the counter of the same history (R87 (c)). -/
theorem GrayPointers.Wf.semWView_bounds :
    0 ≤ p.semWView g w ∧
      p.semWView g w ≤ ((BitVec.ofNat 9 (g.n - pointerDistance g p.wPtr p.rPtr - w.toNat)).toNat : Int) := by
  obtain ⟨-, hle, hsum⟩ := h.views_ordered hg
  have hn := hg.n_le
  have hcount : (BitVec.ofNat 9 (g.n - pointerDistance g p.wPtr p.rPtr - w.toNat)).toNat =
      g.n - pointerDistance g p.wPtr p.rPtr - w.toNat := Nat.mod_eq_of_lt (by omega)
  rw [hcount, GrayPointers.semWView]
  omega

/-- The consumer's view lies between 0 and the counter of the same history (R87 (c)). -/
theorem GrayPointers.Wf.semRView_bounds :
    0 ≤ p.semRView g r ∧
      p.semRView g r ≤ ((BitVec.ofNat 9 (pointerDistance g p.wPtr p.rPtr - r.toNat)).toNat : Int) := by
  obtain ⟨hle, hle', hsum⟩ := h.views_ordered hg
  have hheld : r.toNat ≤ p.filledSeenByConsumer g := h.2.2
  have hn := hg.n_le
  have hcount : (BitVec.ofNat 9 (pointerDistance g p.wPtr p.rPtr - r.toNat)).toNat =
      pointerDistance g p.wPtr p.rPtr - r.toNat := Nat.mod_eq_of_lt (by omega)
  rw [hcount, GrayPointers.semRView]
  omega

end ViewBounds

/-- With nothing held an acquire is available exactly where its view is positive (R82, R84). -/
theorem Queue.canAcquire_iff_views {g : QueueParams} {q : Queue} {p : GrayPointers} (harb : q.arbiter = .grayCdc p) :
    (q.canAcquireWrite g = true ↔ 0 < p.semWView g false) ∧ (q.canAcquireRead g = true ↔ 0 < p.semRView g false) := by
  simp only [Queue.canAcquireWrite, Queue.canAcquireRead, harb, decide_eq_true_eq, GrayPointers.semWView,
    GrayPointers.semRView, Bool.toNat_false]
  omega

/-- At reset the views are N and 0 (R89). -/
theorem Queue.reset_views {g : QueueParams} {p : GrayPointers} (hg : g.InRange)
    (harb : (Queue.reset g).arbiter = .grayCdc p) : p.semWView g false = g.n ∧ p.semRView g false = 0 := by
  cases hkind : g.arbiter with
  | semaphore => cases (Arbiter.reset_semaphore hkind).symm.trans harb
  | grayCdc =>
    cases (Arbiter.reset_grayCdc hkind).symm.trans harb
    simp [GrayPointers.semWView, GrayPointers.semRView, GrayPointers.filledSeenByProducer,
      GrayPointers.filledSeenByConsumer, pointerDistance_self _ hg.one_le_n]

/-- Settles O60: the order of the pointers (R87 (a)) gives the order of the views. -/
theorem viewsNeverExceedTheCounters : Obligations.ViewsNeverExceedTheCounters := by
  refine ⟨fun s x p hs harb => ?_, fun c x p harb => ?_⟩
  · intro g q
    have hg : g.InRange := Config.queue_inRange s.cfg x
    have hwf := (hs.queue_wf x).arbiter_wf
    rw [Queue.arbiterWf_grayCdc harb] at hwf
    obtain ⟨-, hp⟩ := hwf
    obtain ⟨hFr, hFw, hN⟩ := hp.views_ordered hg
    obtain ⟨hw, hw'⟩ := hp.semWView_bounds hg
    obtain ⟨hr, hr'⟩ := hp.semRView_bounds hg
    have hfilled : q.filled g = pointerDistance g p.wPtr p.rPtr := Queue.filled_grayCdc harb
    rw [hfilled]
    obtain ⟨hwrite, hread⟩ := Queue.canAcquire_iff_views (g := g) harb
    exact ⟨hFr, hFw, Nat.le_of_add_right_le hN, ⟨_, by rw [Queue.toSemaphore_of_grayCdc harb], hw, hw', hr, hr'⟩,
      fun hheld => by rwa [hheld], fun hheld => by rwa [hheld]⟩
  · rw [State.resetWith_queue] at harb ⊢
    exact Queue.reset_views (Config.queue_inRange c x) harb

end Sys2Proof.Machine
end

section
/-! The statements about one step: a turn, a presented command, the order of the checks (R106), and the whole next states of
ACQWT, RELR and RELW and of the acquires under GRAY_CDC (R73, R76, R84, R85). -/

namespace Sys2Proof.Machine

/-! ## Turns, presented commands, reset -/

/-- Settles O6: the turn dispatches, and the presented word decodes. -/
theorem stepRunsTheDecodedCommand : Obligations.StepRunsTheDecodedCommand := by
  intro s p timeout w i hev hcmd hdec
  rw [step_turn hev]
  exact dispatch_decoded ((congrArg PortState.cmd (State.advance_withTurn_port s _ p)).trans hcmd) hdec

/-- Settles O11: the reset values hold in every configuration. -/
theorem machineResetStateIsReset : Obligations.MachineResetStateIsReset := State.resetWith_isReset defaultConfig

/-- Settles O12: a free port takes the command, a busy one refuses it. -/
theorem presentedCommandWaitsOnItsPort : Obligations.PresentedCommandWaitsOnItsPort := by
  intro s p w
  refine ⟨fun hfree => runEvent_present hfree w, fun hbusy => ?_⟩
  obtain ⟨v, hv⟩ := Option.ne_none_iff_exists'.1 hbusy
  simp [runEvent, presentCommand, hv]

/-! ## The order of the checks -/

theorem State.consumed_eq (s : State) : s.consumed = if s.turn.port = .ca then .a else .b := by
  rw [State.consumed]
  cases s.turn.port <;> rfl

/-- A command that is legal on P_B belongs there, and acts on queue B (R45). -/
theorem port_pb_of_legalOn {i : Instr} {p : Port} {timed : Bool} (hi : i.belongsOn .pb = true)
    (hlegal : legalOn timed p i = true) : p = .pb :=
  belongsOn_producer hi (Bool.and_eq_true_iff.1 hlegal).1

theorem commandRule_of_producer_violation {i : Instr} {s : State} {c : FaultCode} (hi : i.belongsOn .pb = true)
    (h : heldViolation i s.queueB = some c) : commandRule i s = .raise c := by
  cases i with
  | acqw | acqwt =>
    obtain ⟨hheld, hc⟩ := Option.ite_none_right_eq_some.1 h
    cases hc
    exact acquireWriteSlot_of_held _ hheld
  | relw | addb b | wfull | wempty =>
    obtain ⟨hheld, hc⟩ := Option.ite_none_left_eq_some.1 h
    cases hc
    exact if_neg hheld
  | acqr | relr | remb | peek | rfull | rempty | pbyte b => cases hi

theorem commandRule_of_consumer_violation {i : Instr} {s : State} {c : FaultCode} (hi : i.belongsOn .pb = false)
    (h : heldViolation i (s.queue s.consumed) = some c) : commandRule i s = .raise c := by
  cases i with
  | acqr =>
    obtain ⟨hheld, hc⟩ := Option.ite_none_right_eq_some.1 h
    cases hc
    exact if_pos hheld
  | relr | remb | peek | rfull | rempty =>
    obtain ⟨hheld, hc⟩ := Option.ite_none_left_eq_some.1 h
    cases hc
    exact if_neg hheld
  | pbyte b => cases h
  | acqw | acqwt | relw | addb b | wfull | wempty => cases hi

/-- The rule of a command begins with its held-state check (R106). -/
theorem commandRule_of_violation {i : Instr} {s : State} {c : FaultCode}
    (hlegal : legalOn s.cfg.timedAcquire s.turn.port i = true)
    (h : heldViolation i (s.queue (if s.turn.port = .ca then .a else .b)) = some c) : commandRule i s = .raise c := by
  cases hi : i.belongsOn .pb with
  | true =>
    rw [port_pb_of_legalOn hi hlegal] at h
    exact commandRule_of_producer_violation hi h
  | false =>
    rw [← State.consumed_eq] at h
    exact commandRule_of_consumer_violation hi h

/-- Settles O14: the frame of R106 for the first two checks, the rule for the third. -/
theorem checksComeInOrder : Obligations.ChecksComeInOrder := by
  refine ⟨fun i s => exec_halted i, fun i s hrun hillegal => ?_, fun i s c hrun hlegal hheld => ?_,
    fun b s hrun hport => exec_pbyte_of_pending hrun hport⟩
  · rw [exec_eq_command, command_illegal i s _ hrun hillegal, State.raise]
  · rw [exec_eq_command, commandRule_of_violation hlegal hheld, command_on_raise hrun rfl hlegal]

/-! ## ACQWT -/

section Acqwt

variable {s : State} (hrun : s.halted = false) (hport : s.turn.port = .pb)

include hrun hport

/-- ACQWT without TIMED_ACQUIRE is illegal on P_B (R52 (e), R73). -/
theorem exec_acqwt_of_absent (htimed : s.cfg.timedAcquire = false) :
    exec .acqwt s = .next { s with fault := 0xB007#16, fcmd := 0x6000#16 } := by
  have hcmd : encode .acqwt = 0x6000#16 := by decide
  have hword : faultWord .pb .illegalCommand = 0xB007#16 := faultWord_illegalCommand .pb
  rw [exec_eq_command, command_illegal _ _ _ hrun (by rw [hport, htimed]; rfl), State.raise, hport, hword, hcmd]

variable (htimed : s.cfg.timedAcquire = true)

include htimed

theorem command_acqwt (a : Action) : command .acqwt s a = conclude .acqwt s a :=
  command_pb hrun hport (by rw [htimed]; rfl) a

theorem exec_acqwt_of_held (hheld : s.queueB.wHeld = true) :
    exec .acqwt s = .next { s with fault := 0xB001#16, fcmd := 0x6000#16 } := by
  have hcmd : encode .acqwt = 0x6000#16 := by decide
  obtain ⟨hword, -⟩ := faultWord_pb
  rw [exec_eq_command, commandRule, acquireWriteSlot_of_held _ hheld, command_acqwt hrun hport htimed, conclude_raise,
    State.raise, hport, hword, hcmd]

theorem exec_acqwt_of_available (hheld : s.queueB.wHeld = false) (hfree : s.queueB.canAcquireWrite s.cfg.b = true) :
    exec .acqwt s =
      .next { s with queueB := s.queueB.acquireWrite, portPB := { cmd := none, rsp := some 0x0000#16 } } := by
  rw [exec_eq_command, commandRule, acquireWriteSlot_of_available _ hheld hfree, command_acqwt hrun hport htimed,
    conclude_respond, hport, responseWord_ok]
  rfl

theorem exec_acqwt_of_timeout (hheld : s.queueB.wHeld = false) (hfree : s.queueB.canAcquireWrite s.cfg.b = false)
    (hdraw : s.turn.timeout = true) :
    exec .acqwt s = .next { s with portPB := { cmd := none, rsp := some 0x0300#16 } } := by
  rw [exec_eq_command, commandRule, acquireWriteSlot_of_unavailable _ hheld hfree, if_pos hdraw,
    command_acqwt hrun hport htimed, conclude_respond, hport, responseWord_timeout]
  rfl

theorem exec_acqwt_of_hold (hheld : s.queueB.wHeld = false) (hfree : s.queueB.canAcquireWrite s.cfg.b = false)
    (hdraw : s.turn.timeout = false) : exec .acqwt s = .next s := by
  rw [exec_eq_command, commandRule, acquireWriteSlot_of_unavailable _ hheld hfree, if_neg (by simp [hdraw]),
    command_acqwt hrun hport htimed, conclude_hold]

end Acqwt

/-- Settles O21: the five cases of ACQWT, with `semW` for the availability. -/
theorem acqwtAcquiresOrTimesOut : Obligations.AcqwtAcquiresOrTimesOut := by
  intro s c hrun hport harb
  have havail := Queue.canAcquireWrite_semaphore s.cfg.b harb
  have hnone (h : c.semW = 0) : s.queueB.canAcquireWrite s.cfg.b = false :=
    Bool.eq_false_iff.2 fun hfree => havail.1 hfree h
  refine ⟨exec_acqwt_of_absent hrun hport, exec_acqwt_of_held hrun hport, fun htimed hheld hsome => ?_,
    fun htimed hheld hzero => exec_acqwt_of_timeout hrun hport htimed hheld (hnone hzero),
    fun htimed hheld hzero => exec_acqwt_of_hold hrun hport htimed hheld (hnone hzero)⟩
  rw [exec_acqwt_of_available hrun hport htimed hheld (havail.2 hsome), Queue.acquireWrite_semaphore harb]

/-! ## Acquires under GRAY_CDC -/

section GrayAcquires

variable {g : QueueParams} {q : Queue} {p : GrayPointers} (harb : q.arbiter = .grayCdc p)

include harb

theorem Queue.acquireWrite_of_grayCdc : q.acquireWrite = { q with wHeld := true } := by
  rw [Queue.acquireWrite_grayCdc harb, ← harb]

theorem Queue.acquireRead_of_grayCdc : q.acquireRead = { q with rHeld := true } := by
  rw [Queue.acquireRead_grayCdc harb, ← harb]

/-- The consumer's condition as an equation of integers mod 2N (R82, R84). -/
theorem Queue.canAcquireRead_grayCdc (hn : 1 ≤ g.n) :
    q.canAcquireRead g = true ↔ ((p.wPtrSyncR.toNat : Int) - (p.rPtr.toNat : Int)) % (2 * (g.n : Int)) ≠ 0 := by
  rw [← pointerDistance_int g _ _ hn, Nat.cast_ne_zero, Queue.canAcquireRead, harb]
  exact decide_eq_true_iff

end GrayAcquires

/-- Settles O28: the views decide, and an acquire sets the held bit only. -/
theorem acquiresUnderGrayCdcCheckTheViews : Obligations.AcquiresUnderGrayCdcCheckTheViews := by
  refine ⟨fun s g hrun hport harb hheld => ?_, fun s p x g hrun hport hc harb hheld => ?_⟩
  · intro fw
    have hn : 1 ≤ s.cfg.b.n := (Config.queue_inRange s.cfg .b).one_le_n
    have hfull (h : fw = s.cfg.b.n) : s.queueB.canAcquireWrite s.cfg.b = false :=
      Queue.canAcquireWrite_of_full hn harb h.ge
    have havail := (Queue.canAcquireWrite_grayCdc hn harb).2
    refine ⟨fun h => exec_acqw_of_unavailable hrun hport hheld (hfull h), fun h => ?_, fun htimed h => ?_,
      fun htimed h => exec_acqwt_of_timeout hrun hport htimed hheld (hfull h),
      fun htimed h => exec_acqwt_of_hold hrun hport htimed hheld (hfull h)⟩
    · rw [exec_acqw_of_available hrun hport hheld (havail h), Queue.acquireWrite_of_grayCdc harb]
    · rw [exec_acqwt_of_available hrun hport htimed hheld (havail h), Queue.acquireWrite_of_grayCdc harb]
  · intro fr
    have havail := Queue.canAcquireRead_grayCdc (g := s.cfg.queue x) harb (Config.queue_inRange s.cfg x).one_le_n
    refine ⟨fun h => ?_, fun h => ?_⟩
    · exact exec_acqr_of_unavailable hrun hport hc hheld (Bool.eq_false_iff.2 fun hsome => havail.1 hsome h)
    · rw [exec_acqr_of_available hrun hport hc hheld (havail.2 h), Queue.acquireRead_of_grayCdc harb]

/-! ## Releases -/

/-- A release of the read slot, field by field. -/
theorem Queue.releaseRead_eq (g : QueueParams) (q : Queue) :
    q.releaseRead g =
      { slots := q.slots.set (q.readSlot g) Slot.empty, arbiter := (q.releaseRead g).arbiter, wHeld := q.wHeld,
        rHeld := false, ram := (q.releaseRead g).ram } := by
  have hslots := Queue.releaseRead_slots g q
  have hw := Queue.releaseRead_wHeld g q
  have hr := Queue.releaseRead_rHeld g q
  generalize q.releaseRead g = q' at hslots hw hr ⊢
  cases q'
  cases hslots
  cases hw
  cases hr
  rfl

/-- Settles O23: RELR resets the slot `rIdx`, and frees it for the producer's counter. -/
theorem relrRecyclesTheReadSlot : Obligations.RelrRecyclesTheReadSlot := by
  intro s p x c hrun hport hc harb g j
  refine ⟨exec_relr_of_not_held hrun hport hc, fun hheld => ⟨((s.queue x).releaseRead g).ram, fun a => ?_, ?_⟩⟩
  · rw [Queue.releaseRead_read, Queue.readSlot_semaphore harb]
  · rw [exec_relr_of_held hrun hport hc hheld, Queue.releaseRead_eq, Queue.releaseRead_semaphore harb,
      Queue.readSlot_semaphore harb]
    rfl

/-- Settles O29: the releases of R85, with the pointers for the indices. -/
theorem releasesUnderGrayCdcAdvanceThePointers : Obligations.ReleasesUnderGrayCdcAdvanceThePointers := by
  refine ⟨fun s g hrun hport harb => ⟨exec_relw_of_not_held hrun hport, fun hheld => ?_⟩,
    fun s p x g hrun hport hc harb => ?_⟩
  · rw [exec_relw_of_held hrun hport hheld, Queue.releaseWrite_grayCdc harb, pointerAdvance]
  · intro par j
    refine ⟨exec_relr_of_not_held hrun hport hc, fun hheld => ⟨((s.queue x).releaseRead par).ram, fun a => ?_, ?_⟩⟩
    · rw [Queue.releaseRead_read, Queue.readSlot_grayCdc harb]
    · rw [exec_relr_of_held hrun hport hc hheld, Queue.releaseRead_eq, Queue.releaseRead_grayCdc harb,
        Queue.readSlot_grayCdc harb]
      rfl

end Sys2Proof.Machine
end
